-- ==== Sys2Proof/Word.lean ====
section
/-! DEFINITION. The two word types of the machine (00_scope.md R6, R8): a byte (registers, memory and
port data) and a word (pairs, PC, SP, index registers, MEMPTR, memory and port addresses).
Arithmetic on them is modulo 2^8 and 2^16, as BitVec's is. -/

namespace Sys2Proof

/-- `u8` of 00_scope.md R8. -/
abbrev Byte := BitVec 8

/-- `u16` of 00_scope.md R8. -/
abbrev Word := BitVec 16

end Sys2Proof
end

