-- ==== Sys2Proof/Config.lean ====
section
/-! DEFINITION. The parameters of 00_scope.md R7 that a rule reads as a value, and the free values:
constants with no body, of which nothing can be proved but that they are some value. The other
parameters of R7 (`IM0_BEHAVIOUR`, `XY_SCF_CCF`, `BLOCK_REPEAT_XY`, `LD_A_IR_INT_QUIRK`,
`TSTATE_WIDTH`) select which rule applies; the model has the rule of the value the spec fixes
(log 15). -/

namespace Sys2Proof.Config

/-- `T_RESET`: the T-states of a serviced RESET (00_scope.md R7, 60_exceptions.md R538). -/
def tReset : Nat := 3

/-- `OUT_C_ZERO`: the byte `OUT (C),0` drives (00_scope.md R7, 49_io.md R505). -/
def outCZero : Byte := 0x00

/-- FREE VALUE (log 5): the byte the host answers to a `ReadPort` of a port when the state names no
answer in advance (93_implementation_defined.md U6: any value, owned by the host). The first
argument numbers the draw. -/
opaque freePortByte : Nat → Word → Byte

/-- FREE VALUE (log 7): the 16-bit register contents that a serviced RESET leaves unspecified
(10_state.md R52: "a model draws any value", U1 to U4). The argument numbers the draw. -/
opaque freeResetWord : Nat → Word

end Sys2Proof.Config
end

