-- ==== Sys2Proof/Machine/Bits.lean ====
section
/-! DEFINITION. Pure helpers over bytes and words: the halves of a word, byte order, sign extension,
and the two opcode sets the encoding chapter lists (the unofficial ED slots and the opcodes an
index prefix changes). -/

namespace Sys2Proof

/-- A small number as a byte. -/
def byteOf (n : Nat) : Byte := BitVec.ofNat 8 n

/-- Bits 15..8 of a word: the high byte (00_scope.md R8). -/
def hiByte (w : Word) : Byte := w.extractLsb' 8 8

/-- Bits 7..0 of a word: the low byte. -/
def loByte (w : Word) : Byte := w.extractLsb' 0 8

/-- `hi : lo`, the word whose high byte is `hi` (00_scope.md R8). -/
def join (hi lo : Byte) : Word := hi ++ lo

/-- `sext_16` of a byte (00_scope.md R8). -/
def sext16 (v : Byte) : Word := v.signExtend 16

/-- 0xDD or 0xFD (30_encoding.md R110). -/
def isIndexPrefix (b : Byte) : Bool := b == 0xDD || b == 0xFD

/-- The ED second bytes with no row of their own (44_arith8_control.md R357: ED 00 to 3F, 77, 7F,
80 to 9F, A4 to A7, AC to AF, B4 to B7, BC to BF, C0 to FF). -/
def unofficialEd (v : Byte) : Bool :=
  let n := v.toNat
  n ≤ 0x3F || n == 0x77 || n == 0x7F || (0x80 ≤ n && n ≤ 0x9F) || (0xA4 ≤ n && n ≤ 0xA7)
    || (0xAC ≤ n && n ≤ 0xAF) || (0xB4 ≤ n && n ≤ 0xB7) || (0xBC ≤ n && n ≤ 0xBF) || 0xC0 ≤ n

/-- The opcodes that the DD/FD table gives a row of its own: the cells of the grid of
30_encoding.md R130 that are not `·`, 0xCB (which selects the DD/FD+CB table, R118 item 6)
among them. Before every other byte an index prefix is ignored or redundant. -/
def indexAffected (op : Byte) : Bool :=
  ([0x09, 0x19, 0x21, 0x22, 0x23, 0x24, 0x25, 0x26, 0x29, 0x2A, 0x2B, 0x2C, 0x2D, 0x2E,
    0x34, 0x35, 0x36, 0x39]
   ++ [0x44, 0x45, 0x46, 0x4C, 0x4D, 0x4E, 0x54, 0x55, 0x56, 0x5C, 0x5D, 0x5E]
   ++ [0x60, 0x61, 0x62, 0x63, 0x64, 0x65, 0x66, 0x67, 0x68, 0x69, 0x6A, 0x6B, 0x6C, 0x6D, 0x6E, 0x6F]
   ++ [0x70, 0x71, 0x72, 0x73, 0x74, 0x75, 0x77, 0x7C, 0x7D, 0x7E]
   ++ [0x84, 0x85, 0x86, 0x8C, 0x8D, 0x8E, 0x94, 0x95, 0x96, 0x9C, 0x9D, 0x9E]
   ++ [0xA4, 0xA5, 0xA6, 0xAC, 0xAD, 0xAE, 0xB4, 0xB5, 0xB6, 0xBC, 0xBD, 0xBE]
   ++ [0xCB, 0xE1, 0xE3, 0xE5, 0xE9, 0xF9]).contains op.toNat

end Sys2Proof
end

