-- ==== Sys2Proof/Machine/Flags.lean ====
section
/-! DEFINITION. The flag byte and the ALU functions of 40_alu_flags.md, each a pure function from its
inputs to a result and a flag byte ("A model may compute the functions or tabulate them"). A pair is
(result, F). -/

namespace Sys2Proof

/-! ## The flag byte (R170, R171; 10_state.md R40) -/

/-- `Fbyte` (R170): S, Z, F5, H, F3, P/V, N, C from bit 7 down to bit 0. -/
def fbyte (s z y h x pv n c : Bool) : Byte :=
  BitVec.ofBool s ++ BitVec.ofBool z ++ BitVec.ofBool y ++ BitVec.ofBool h ++ BitVec.ofBool x
    ++ BitVec.ofBool pv ++ BitVec.ofBool n ++ BitVec.ofBool c

/-- F.S, bit 7. -/
def flagS (f : Byte) : Bool := f.getLsbD 7
/-- F.Z, bit 6. -/
def flagZ (f : Byte) : Bool := f.getLsbD 6
/-- F5, bit 5. -/
def flagY (f : Byte) : Bool := f.getLsbD 5
/-- F.H, bit 4. -/
def flagH (f : Byte) : Bool := f.getLsbD 4
/-- F3, bit 3. -/
def flagX (f : Byte) : Bool := f.getLsbD 3
/-- F.PV, bit 2. -/
def flagPV (f : Byte) : Bool := f.getLsbD 2
/-- F.N, bit 1. -/
def flagN (f : Byte) : Bool := f.getLsbD 1
/-- F.C, bit 0. -/
def flagC (f : Byte) : Bool := f.getLsbD 0

/-- A bit at place `k` of a byte. -/
def bitAt (b : Bool) (k : Nat) : Byte := if b then byteOf (2 ^ k) else 0

/-- `PAR` (R171): true when the number of 1 bits is even. -/
def parity (v : Byte) : Bool := ((List.range 8).filter fun k => v.getLsbD k).length % 2 == 0

/-- `SZXY` (R171). -/
def szxy (v : Byte) : Byte := fbyte (v.getLsbD 7) (v == 0) (v.getLsbD 5) false (v.getLsbD 3) false false false

/-! ## 8-bit arithmetic (R172 to R178) -/

/-- `ADD8` (R172). -/
def add8 (a b : Byte) (c : Bool) : Byte × Byte :=
  let t := a.toNat + b.toNat + c.toNat
  let res := BitVec.ofNat 8 t
  (res, fbyte (res.getLsbD 7) (res == 0) (res.getLsbD 5)
    (decide ((a &&& 0x0F).toNat + (b &&& 0x0F).toNat + c.toNat > 0x0F)) (res.getLsbD 3)
    (a.getLsbD 7 == b.getLsbD 7 && res.getLsbD 7 != a.getLsbD 7) false (decide (t > 255)))

/-- `SUB8` (R173). -/
def sub8 (a b : Byte) (c : Bool) : Byte × Byte :=
  let t : Int := (a.toNat : Int) - b.toNat - c.toNat
  let res := BitVec.ofInt 8 t
  (res, fbyte (res.getLsbD 7) (res == 0) (res.getLsbD 5)
    (decide (((a &&& 0x0F).toNat : Int) - (b &&& 0x0F).toNat - c.toNat < 0)) (res.getLsbD 3)
    (a.getLsbD 7 != b.getLsbD 7 && res.getLsbD 7 != a.getLsbD 7) true (decide (t < 0)))

/-- `CP8` (R174): the flags of `SUB8`, F5 and F3 from the operand. -/
def cp8 (a b : Byte) : Byte := ((sub8 a b false).2 &&& 0xD7) ||| (b &&& 0x28)

/-- `LOGIC` (R176). -/
def logic (res : Byte) (h : Bool) : Byte :=
  fbyte (res.getLsbD 7) (res == 0) (res.getLsbD 5) h (res.getLsbD 3) (parity res) false false

/-- `INC8` (R177): C kept from the old F. -/
def inc8 (v fin : Byte) : Byte × Byte :=
  let res := v + 1
  (res, fbyte (res.getLsbD 7) (res == 0) (res.getLsbD 5) (v &&& 0x0F == 0x0F) (res.getLsbD 3)
    (v == 0x7F) false (flagC fin))

/-- `DEC8` (R178): C kept from the old F. -/
def dec8 (v fin : Byte) : Byte × Byte :=
  let res := v - 1
  (res, fbyte (res.getLsbD 7) (res == 0) (res.getLsbD 5) (v &&& 0x0F == 0x00) (res.getLsbD 3)
    (v == 0x80) true (flagC fin))

/-! ## Rotates and shifts (R179 to R181) -/

/-- The rotate/shift operations (30_encoding.md R116). -/
inductive RotOp where
  | rlc | rrc | rl | rr | sla | sra | sll | srl
  deriving DecidableEq, Repr

/-- `ROT` (R179): the result and the bit shifted out. -/
def rot (k : RotOp) (v : Byte) (cin : Bool) : Byte × Bool :=
  match k with
  | .rlc => ((v <<< 1) + bitAt (v.getLsbD 7) 0, v.getLsbD 7)
  | .rrc => ((v >>> 1) + bitAt (v.getLsbD 0) 7, v.getLsbD 0)
  | .rl => ((v <<< 1) + bitAt cin 0, v.getLsbD 7)
  | .rr => ((v >>> 1) + bitAt cin 7, v.getLsbD 0)
  | .sla => (v <<< 1, v.getLsbD 7)
  | .sra => ((v >>> 1) + (v &&& 0x80), v.getLsbD 0)
  | .sll => ((v <<< 1) + 1, v.getLsbD 7)
  | .srl => (v >>> 1, v.getLsbD 0)

/-- `ROTF` (R180), from the carry of the old F. -/
def rotF (k : RotOp) (v fin : Byte) : Byte × Byte :=
  let p := rot k v (flagC fin)
  (p.1, logic p.1 false ||| bitAt p.2 0)

/-- `ROTAF` (R181): S, Z and P/V kept. -/
def rotAF (k : RotOp) (a fin : Byte) : Byte × Byte :=
  let p := rot k a (flagC fin)
  (p.1, (fin &&& 0xC4) ||| (p.1 &&& 0x28) ||| bitAt p.2 0)

/-! ## Decimal adjust (R183) -/

/-- `DAA` (R183). -/
def daaF (a fin : Byte) : Byte × Byte :=
  let n := flagN fin
  let low : Byte := if flagH fin || decide ((a &&& 0x0F).toNat > 9) then 0x06 else 0x00
  let cout := flagC fin || decide (a.toNat > 0x99)
  let corr := low ||| (if cout then 0x60 else 0x00)
  let res := if n then a - corr else a + corr
  let hout := if n then flagH fin && decide ((a &&& 0x0F).toNat < 6) else decide ((a &&& 0x0F).toNat > 9)
  (res, fbyte (res.getLsbD 7) (res == 0) (res.getLsbD 5) hout (res.getLsbD 3) (parity res) n cout)

/-! ## 16-bit arithmetic (R184, R185) -/

/-- `ADD16` (R184): S, Z and P/V kept (90_conflicts.md C6). -/
def add16 (a b : Word) (fin : Byte) : Word × Byte :=
  let t := a.toNat + b.toNat
  let res := BitVec.ofNat 16 t
  (res, (fin &&& 0xC4) ||| (hiByte res &&& 0x28)
    ||| bitAt (decide ((a &&& 0x0FFF).toNat + (b &&& 0x0FFF).toNat > 0x0FFF)) 4
    ||| bitAt (decide (t > 65535)) 0)

/-- `ADC16` (R185). -/
def adc16 (a b : Word) (c : Bool) : Word × Byte :=
  let t := a.toNat + b.toNat + c.toNat
  let res := BitVec.ofNat 16 t
  (res, fbyte (res.getLsbD 15) (res == 0) (res.getLsbD 13)
    (decide ((a &&& 0x0FFF).toNat + (b &&& 0x0FFF).toNat + c.toNat > 0x0FFF)) (res.getLsbD 11)
    (a.getLsbD 15 == b.getLsbD 15 && res.getLsbD 15 != a.getLsbD 15) false (decide (t > 65535)))

/-- `SBC16` (R185). -/
def sbc16 (a b : Word) (c : Bool) : Word × Byte :=
  let t : Int := (a.toNat : Int) - b.toNat - c.toNat
  let res := BitVec.ofInt 16 t
  (res, fbyte (res.getLsbD 15) (res == 0) (res.getLsbD 13)
    (decide (((a &&& 0x0FFF).toNat : Int) - (b &&& 0x0FFF).toNat - c.toNat < 0)) (res.getLsbD 11)
    (a.getLsbD 15 != b.getLsbD 15 && res.getLsbD 15 != a.getLsbD 15) true (decide (t < 0)))

/-! ## Bit test (R186) -/

/-- `BITF` (R186): `xysrc` supplies F5 and F3. -/
def bitF (b : Fin 8) (v xysrc fin : Byte) : Byte :=
  let t := v.getLsbD b.val
  fbyte (decide (b = 7) && t) (!t) (xysrc.getLsbD 5) true (xysrc.getLsbD 3) (!t) false (flagC fin)

/-! ## Flags that one instruction rule gives -/

/-- CPL (44_arith8_control.md R346), from the new A. -/
def cplF (a fin : Byte) : Byte := (fin &&& 0xC5) ||| 0x12 ||| (a &&& 0x28)

/-- CCF (R348), `XY_SCF_CCF` = `FROM_A`. -/
def ccfF (a fin : Byte) : Byte :=
  (fin &&& 0xC4) ||| (a &&& 0x28) ||| bitAt (flagC fin) 4 ||| bitAt (!flagC fin) 0

/-- SCF (R349), `XY_SCF_CCF` = `FROM_A`. -/
def scfF (a fin : Byte) : Byte := (fin &&& 0xC4) ||| (a &&& 0x28) ||| 0x01

/-- LD A,I and LD A,R (41_load8.md R231, R234): P/V = IFF2, `LD_A_IR_INT_QUIRK` = `OFF`. -/
def ldAIRF (v fin : Byte) (iff2 : Bool) : Byte := (fin &&& 0x01) ||| szxy v ||| bitAt iff2 2

/-- IN r,(C), RLD and RRD (49_io.md R501, 46_rotate_shift.md R414): `LOGIC(v, 0) | F.C`. -/
def logicKeepC (v fin : Byte) : Byte := logic v false ||| (fin &&& 0x01)

/-- The block transfers (43_exchange_block.md R306): `v` the byte moved, `more` that BC ≠ 0. -/
def ldBlockF (a v fin : Byte) (more : Bool) : Byte :=
  let k := v + a
  (fin &&& 0xC1) ||| bitAt (k.getLsbD 1) 5 ||| bitAt (k.getLsbD 3) 3 ||| bitAt more 2

/-- The block searches (R310): `v` the byte compared, `more` that BC ≠ 0. -/
def cpBlockF (a v fin : Byte) (more : Bool) : Byte :=
  let p := sub8 a v false
  let k := p.1 - (if flagH p.2 then 1 else 0)
  (p.2 &&& 0xD0) ||| bitAt (k.getLsbD 1) 5 ||| bitAt (k.getLsbD 3) 3 ||| bitAt more 2 ||| 0x02
    ||| (fin &&& 0x01)

/-- The block transfers to and from ports (49_io.md R506): `v` the byte moved, `b` the decremented B,
`k` the 9-bit sum of the instruction's rule. -/
def ioBlockF (v b : Byte) (k : Nat) : Byte :=
  let big := decide (k > 0xFF)
  fbyte (b.getLsbD 7) (b == 0) (b.getLsbD 5) big (b.getLsbD 3) (parity (byteOf (k % 8) ^^^ b))
    (v.getLsbD 7) big

end Sys2Proof
end

