-- ==== Sys2Proof/Syntax.lean ====
section
/-! DEFINITION. The syntax of the Z80's instructions: one constructor of `Instr` per row of
spec/opcode_table.json, in the table's order. Operands are what 30_encoding.md R112 to R118 name;
free encoding bits of an alias are kept as an operand, so that no bit of an encoding is dropped
(log 19, DESIGN CHOICE, safe). -/

namespace Sys2Proof

/-- The 8-bit registers of the code `r8` (30_encoding.md R112); code 6 names no register. -/
inductive Reg8 where
  | b | c | d | e | h | l | a
  deriving DecidableEq, Repr

/-- The pairs of the code `rp` (R113). -/
inductive PairSp where
  | bc | de | hl | sp
  deriving DecidableEq, Repr

/-- The pairs of the code `rp2` (R113). -/
inductive PairAf where
  | bc | de | hl | af
  deriving DecidableEq, Repr

/-- The pairs `pp` of `ADD IDX,pp` (45_arith16.md R383): code 2 is the prefix's own register. -/
inductive PairIdx where
  | bc | de | idx | sp
  deriving DecidableEq, Repr

/-- The index register an index prefix selects (R110): 0xDD is IX, 0xFD is IY. -/
inductive IdxReg where
  | ix | iy
  deriving DecidableEq, Repr

/-- The half of an index register (10_state.md R34): IXh/IYh or IXl/IYl. -/
inductive Half where
  | high | low
  deriving DecidableEq, Repr

/-- The condition codes (R114). -/
inductive Cond where
  | nz | z | nc | c | po | pe | p | m
  deriving DecidableEq, Repr

/-- The conditions of `JR cc` (R114, 48_jump_call_return.md R463). -/
inductive JrCond where
  | nz | z | nc | c
  deriving DecidableEq, Repr

/-- An instruction: one constructor per row of spec/opcode_table.json. -/
inductive Instr where
  -- The base table (30_encoding.md R127).
  /-- `NOP`: `00000000` (R350). -/
  | nop
  /-- `LD dd,nn`: `00pp0001 llllllll mmmmmmmm` (R260). -/
  | ldDdNn (dd : PairSp) (nn : Word)
  /-- `ADD HL,ss`: `00pp1001` (R380). -/
  | addHlSs (ss : PairSp)
  /-- `LD (BC),A`: `00000010` (R228). -/
  | ldIndBcA
  /-- `LD A,(BC)`: `00001010` (R225). -/
  | ldAIndBc
  /-- `LD (DE),A`: `00010010` (R229). -/
  | ldIndDeA
  /-- `LD A,(DE)`: `00011010` (R226). -/
  | ldAIndDe
  /-- `LD (nn),HL`: `00100010 llllllll mmmmmmmm` (R265). -/
  | ldIndNnHl (nn : Word)
  /-- `LD HL,(nn)`: `00101010 llllllll mmmmmmmm` (R262). -/
  | ldHlIndNn (nn : Word)
  /-- `LD (nn),A`: `00110010 llllllll mmmmmmmm` (R230). -/
  | ldIndNnA (nn : Word)
  /-- `LD A,(nn)`: `00111010 llllllll mmmmmmmm` (R227). -/
  | ldAIndNn (nn : Word)
  /-- `INC ss`: `00pp0011` (R384). -/
  | incSs (ss : PairSp)
  /-- `DEC ss`: `00pp1011` (R386). -/
  | decSs (ss : PairSp)
  /-- `INC r`: `00yyy100` (R339). -/
  | incR (r : Reg8)
  /-- `INC (HL)`: `00110100` (R340). -/
  | incIndHl
  /-- `DEC r`: `00yyy101` (R342). -/
  | decR (r : Reg8)
  /-- `DEC (HL)`: `00110101` (R343). -/
  | decIndHl
  /-- `LD r,n`: `00yyy110 nnnnnnnn` (R221). -/
  | ldRN (r : Reg8) (n : Byte)
  /-- `LD (HL),n`: `00110110 nnnnnnnn` (R224). -/
  | ldIndHlN (n : Byte)
  /-- `RLCA`: `00000111` (R400). -/
  | rlca
  /-- `RRCA`: `00001111` (R402). -/
  | rrca
  /-- `RLA`: `00010111` (R401). -/
  | rla
  /-- `RRA`: `00011111` (R403). -/
  | rra
  /-- `DAA`: `00100111` (R345). -/
  | daa
  /-- `CPL`: `00101111` (R346). -/
  | cpl
  /-- `SCF`: `00110111` (R349). -/
  | scf
  /-- `CCF`: `00111111` (R348). -/
  | ccf
  /-- `EX AF,AF'`: `00001000` (R301). -/
  | exAfAf
  /-- `DJNZ e`: `00010000 eeeeeeee` (R465). -/
  | djnz (e : Byte)
  /-- `JR e`: `00011000 eeeeeeee` (R462). -/
  | jr (e : Byte)
  /-- `JR cc,e`: `001cc000 eeeeeeee` (R463). -/
  | jrCc (cc : JrCond) (e : Byte)
  /-- `HALT`: `01110110` (R351). -/
  | halt
  /-- `LD r,r'`: `01yyyzzz` (R220). -/
  | ldRR (r : Reg8) (r' : Reg8)
  /-- `LD r,(HL)`: `01yyy110` (R222). -/
  | ldRIndHl (r : Reg8)
  /-- `LD (HL),r`: `01110zzz` (R223). -/
  | ldIndHlR (r : Reg8)
  /-- `ADD A,r`: `10000zzz` (R331). -/
  | addAR (r : Reg8)
  /-- `ADD A,(HL)`: `10000110` (R331). -/
  | addAIndHl
  /-- `ADD A,n`: `11000110 nnnnnnnn` (R331). -/
  | addAN (n : Byte)
  /-- `ADC A,r`: `10001zzz` (R332). -/
  | adcAR (r : Reg8)
  /-- `ADC A,(HL)`: `10001110` (R332). -/
  | adcAIndHl
  /-- `ADC A,n`: `11001110 nnnnnnnn` (R332). -/
  | adcAN (n : Byte)
  /-- `SUB r`: `10010zzz` (R333). -/
  | subR (r : Reg8)
  /-- `SUB (HL)`: `10010110` (R333). -/
  | subIndHl
  /-- `SUB n`: `11010110 nnnnnnnn` (R333). -/
  | subN (n : Byte)
  /-- `SBC A,r`: `10011zzz` (R334). -/
  | sbcAR (r : Reg8)
  /-- `SBC A,(HL)`: `10011110` (R334). -/
  | sbcAIndHl
  /-- `SBC A,n`: `11011110 nnnnnnnn` (R334). -/
  | sbcAN (n : Byte)
  /-- `AND r`: `10100zzz` (R335). -/
  | andR (r : Reg8)
  /-- `AND (HL)`: `10100110` (R335). -/
  | andIndHl
  /-- `AND n`: `11100110 nnnnnnnn` (R335). -/
  | andN (n : Byte)
  /-- `XOR r`: `10101zzz` (R336). -/
  | xorR (r : Reg8)
  /-- `XOR (HL)`: `10101110` (R336). -/
  | xorIndHl
  /-- `XOR n`: `11101110 nnnnnnnn` (R336). -/
  | xorN (n : Byte)
  /-- `OR r`: `10110zzz` (R337). -/
  | orR (r : Reg8)
  /-- `OR (HL)`: `10110110` (R337). -/
  | orIndHl
  /-- `OR n`: `11110110 nnnnnnnn` (R337). -/
  | orN (n : Byte)
  /-- `CP r`: `10111zzz` (R338). -/
  | cpR (r : Reg8)
  /-- `CP (HL)`: `10111110` (R338). -/
  | cpIndHl
  /-- `CP n`: `11111110 nnnnnnnn` (R338). -/
  | cpN (n : Byte)
  /-- `RET cc`: `11ccc000` (R469). -/
  | retCc (cc : Cond)
  /-- `POP qq`: `11pp0001` (R272). -/
  | popQq (qq : PairAf)
  /-- `RET`: `11001001` (R468). -/
  | ret
  /-- `EXX`: `11011001` (R302). -/
  | exx
  /-- `JP (HL)`: `11101001` (R464). -/
  | jpIndHl
  /-- `LD SP,HL`: `11111001` (R268). -/
  | ldSpHl
  /-- `JP cc,nn`: `11ccc010 llllllll mmmmmmmm` (R461). -/
  | jpCcNn (cc : Cond) (nn : Word)
  /-- `JP nn`: `11000011 llllllll mmmmmmmm` (R460). -/
  | jpNn (nn : Word)
  /-- `OUT (n),A`: `11010011 nnnnnnnn` (R503). -/
  | outIndNA (n : Byte)
  /-- `IN A,(n)`: `11011011 nnnnnnnn` (R500). -/
  | inAIndN (n : Byte)
  /-- `EX (SP),HL`: `11100011` (R303). -/
  | exIndSpHl
  /-- `EX DE,HL`: `11101011` (R300). -/
  | exDeHl
  /-- `DI`: `11110011` (R352). -/
  | di
  /-- `EI`: `11111011` (R353). -/
  | ei
  /-- `CALL cc,nn`: `11ccc100 llllllll mmmmmmmm` (R467). -/
  | callCcNn (cc : Cond) (nn : Word)
  /-- `PUSH qq`: `11pp0101` (R270). -/
  | pushQq (qq : PairAf)
  /-- `CALL nn`: `11001101 llllllll mmmmmmmm` (R466). -/
  | callNn (nn : Word)
  /-- `RST t`: `11ttt111` (R472). -/
  | rst (t : Fin 8)
  -- The CB table (R128).
  /-- `RLC r`: `11001011 00000zzz` (R406). -/
  | rlcR (r : Reg8)
  /-- `RLC (HL)`: `11001011 00000110` (R406). -/
  | rlcIndHl
  /-- `RRC r`: `11001011 00001zzz` (R407). -/
  | rrcR (r : Reg8)
  /-- `RRC (HL)`: `11001011 00001110` (R407). -/
  | rrcIndHl
  /-- `RL r`: `11001011 00010zzz` (R408). -/
  | rlR (r : Reg8)
  /-- `RL (HL)`: `11001011 00010110` (R408). -/
  | rlIndHl
  /-- `RR r`: `11001011 00011zzz` (R409). -/
  | rrR (r : Reg8)
  /-- `RR (HL)`: `11001011 00011110` (R409). -/
  | rrIndHl
  /-- `SLA r`: `11001011 00100zzz` (R410). -/
  | slaR (r : Reg8)
  /-- `SLA (HL)`: `11001011 00100110` (R410). -/
  | slaIndHl
  /-- `SRA r`: `11001011 00101zzz` (R411). -/
  | sraR (r : Reg8)
  /-- `SRA (HL)`: `11001011 00101110` (R411). -/
  | sraIndHl
  /-- `SLL r`: `11001011 00110zzz` (R412). -/
  | sllR (r : Reg8)
  /-- `SLL (HL)`: `11001011 00110110` (R412). -/
  | sllIndHl
  /-- `SRL r`: `11001011 00111zzz` (R413). -/
  | srlR (r : Reg8)
  /-- `SRL (HL)`: `11001011 00111110` (R413). -/
  | srlIndHl
  /-- `BIT b,r`: `11001011 01bbbzzz` (R430). -/
  | bitBR (b : Fin 8) (r : Reg8)
  /-- `BIT b,(HL)`: `11001011 01bbb110` (R431). -/
  | bitBIndHl (b : Fin 8)
  /-- `RES b,r`: `11001011 10bbbzzz` (R433). -/
  | resBR (b : Fin 8) (r : Reg8)
  /-- `RES b,(HL)`: `11001011 10bbb110` (R434). -/
  | resBIndHl (b : Fin 8)
  /-- `SET b,r`: `11001011 11bbbzzz` (R436). -/
  | setBR (b : Fin 8) (r : Reg8)
  /-- `SET b,(HL)`: `11001011 11bbb110` (R437). -/
  | setBIndHl (b : Fin 8)
  -- The ED table (R129).
  /-- `IN r,(C)`: `11101101 01yyy000` (R501). -/
  | inRIndC (r : Reg8)
  /-- `IN (C)`: `11101101 01110000` (R502). -/
  | inIndC
  /-- `OUT (C),r`: `11101101 01yyy001` (R504). -/
  | outIndCR (r : Reg8)
  /-- `OUT (C),0`: `11101101 01110001` (R505). -/
  | outIndCZero
  /-- `SBC HL,ss`: `11101101 01pp0010` (R382). -/
  | sbcHlSs (ss : PairSp)
  /-- `ADC HL,ss`: `11101101 01pp1010` (R381). -/
  | adcHlSs (ss : PairSp)
  /-- `LD (nn),dd`: `11101101 01pp0011 llllllll mmmmmmmm` (R266). -/
  | ldIndNnDd (dd : PairSp) (nn : Word)
  /-- `LD dd,(nn)`: `11101101 01pp1011 llllllll mmmmmmmm` (R263). -/
  | ldDdIndNn (dd : PairSp) (nn : Word)
  /-- `NEG`: `11101101 01xxx100` (R347). -/
  | neg (v : Fin 8)
  /-- `RETN`: `11101101 01xxx101` (R471). -/
  | retn (v : Fin 8)
  /-- `RETI`: `11101101 01001101` (R470). -/
  | reti
  /-- `IM 0`: `11101101 01x0x110` (R354). -/
  | imZero (v : Fin 4)
  /-- `IM 1`: `11101101 01x10110` (R355). -/
  | imOne (v : Fin 2)
  /-- `IM 2`: `11101101 01x11110` (R356). -/
  | imTwo (v : Fin 2)
  /-- `LD I,A`: `11101101 01000111` (R232). -/
  | ldVectorA
  /-- `LD R,A`: `11101101 01001111` (R233). -/
  | ldRefreshA
  /-- `LD A,I`: `11101101 01010111` (R231). -/
  | ldAVector
  /-- `LD A,R`: `11101101 01011111` (R234). -/
  | ldARefresh
  /-- `RRD`: `11101101 01100111` (R415). -/
  | rrd
  /-- `RLD`: `11101101 01101111` (R414). -/
  | rld
  /-- `LDI`: `11101101 10100000` (R306). -/
  | ldi
  /-- `CPI`: `11101101 10100001` (R310). -/
  | cpi
  /-- `INI`: `11101101 10100010` (R507). -/
  | ini
  /-- `OUTI`: `11101101 10100011` (R511). -/
  | outi
  /-- `LDD`: `11101101 10101000` (R307). -/
  | ldd
  /-- `CPD`: `11101101 10101001` (R311). -/
  | cpd
  /-- `IND`: `11101101 10101010` (R508). -/
  | ind
  /-- `OUTD`: `11101101 10101011` (R512). -/
  | outd
  /-- `LDIR`: `11101101 10110000` (R308). -/
  | ldir
  /-- `CPIR`: `11101101 10110001` (R312). -/
  | cpir
  /-- `INIR`: `11101101 10110010` (R509). -/
  | inir
  /-- `OTIR`: `11101101 10110011` (R513). -/
  | otir
  /-- `LDDR`: `11101101 10111000` (R309). -/
  | lddr
  /-- `CPDR`: `11101101 10111001` (R313). -/
  | cpdr
  /-- `INDR`: `11101101 10111010` (R510). -/
  | indr
  /-- `OTDR`: `11101101 10111011` (R514). -/
  | otdr
  /-- `NOP (unofficial ED slot)`: `11101101 aaaaaaaa` (R357). -/
  | nopEd (v : Byte)
  -- The DD/FD table (R130).
  /-- `ADD IDX,pp`: `11i11101 00pp1001` (R383). -/
  | addIdxPp (x : IdxReg) (pp : PairIdx)
  /-- `LD IDX,nn`: `11i11101 00100001 llllllll mmmmmmmm` (R261). -/
  | ldIdxNn (x : IdxReg) (nn : Word)
  /-- `LD (nn),IDX`: `11i11101 00100010 llllllll mmmmmmmm` (R267). -/
  | ldIndNnIdx (x : IdxReg) (nn : Word)
  /-- `LD IDX,(nn)`: `11i11101 00101010 llllllll mmmmmmmm` (R264). -/
  | ldIdxIndNn (x : IdxReg) (nn : Word)
  /-- `INC IDX`: `11i11101 00100011` (R385). -/
  | incIdx (x : IdxReg)
  /-- `DEC IDX`: `11i11101 00101011` (R387). -/
  | decIdx (x : IdxReg)
  /-- `INC IDXh/IDXl`: `11i11101 0010h100` (R339). -/
  | incIdxHalf (x : IdxReg) (h : Half)
  /-- `DEC IDXh/IDXl`: `11i11101 0010h101` (R342). -/
  | decIdxHalf (x : IdxReg) (h : Half)
  /-- `LD IDXh/IDXl,n`: `11i11101 0010h110 nnnnnnnn` (R241). -/
  | ldIdxHalfN (x : IdxReg) (h : Half) (n : Byte)
  /-- `INC (IDX+d)`: `11i11101 00110100 dddddddd` (R341). -/
  | incIndIdx (x : IdxReg) (d : Byte)
  /-- `DEC (IDX+d)`: `11i11101 00110101 dddddddd` (R344). -/
  | decIndIdx (x : IdxReg) (d : Byte)
  /-- `LD (IDX+d),n`: `11i11101 00110110 dddddddd nnnnnnnn` (R237). -/
  | ldIndIdxN (x : IdxReg) (d : Byte) (n : Byte)
  /-- `LD r,(IDX+d)`: `11i11101 01yyy110 dddddddd` (R235). -/
  | ldRIndIdx (x : IdxReg) (r : Reg8) (d : Byte)
  /-- `LD (IDX+d),r`: `11i11101 01110zzz dddddddd` (R236). -/
  | ldIndIdxR (x : IdxReg) (d : Byte) (r : Reg8)
  /-- `LD r,IDXh/IDXl`: `11i11101 01yyy10h` (R238). -/
  | ldRIdxHalf (x : IdxReg) (r : Reg8) (h : Half)
  /-- `LD IDXh/IDXl,r`: `11i11101 0110hzzz` (R239). -/
  | ldIdxHalfR (x : IdxReg) (h : Half) (r : Reg8)
  /-- `LD IDXh/IDXl,IDXh/IDXl`: `11i11101 0110h10k` (R240). -/
  | ldIdxHalfIdxHalf (x : IdxReg) (h : Half) (h' : Half)
  /-- `ADD A,IDXh/IDXl`: `11i11101 1000010h` (R331). -/
  | addAIdxHalf (x : IdxReg) (h : Half)
  /-- `ADD A,(IDX+d)`: `11i11101 10000110 dddddddd` (R331). -/
  | addAIndIdx (x : IdxReg) (d : Byte)
  /-- `ADC A,IDXh/IDXl`: `11i11101 1000110h` (R332). -/
  | adcAIdxHalf (x : IdxReg) (h : Half)
  /-- `ADC A,(IDX+d)`: `11i11101 10001110 dddddddd` (R332). -/
  | adcAIndIdx (x : IdxReg) (d : Byte)
  /-- `SUB IDXh/IDXl`: `11i11101 1001010h` (R333). -/
  | subIdxHalf (x : IdxReg) (h : Half)
  /-- `SUB (IDX+d)`: `11i11101 10010110 dddddddd` (R333). -/
  | subIndIdx (x : IdxReg) (d : Byte)
  /-- `SBC A,IDXh/IDXl`: `11i11101 1001110h` (R334). -/
  | sbcAIdxHalf (x : IdxReg) (h : Half)
  /-- `SBC A,(IDX+d)`: `11i11101 10011110 dddddddd` (R334). -/
  | sbcAIndIdx (x : IdxReg) (d : Byte)
  /-- `AND IDXh/IDXl`: `11i11101 1010010h` (R335). -/
  | andIdxHalf (x : IdxReg) (h : Half)
  /-- `AND (IDX+d)`: `11i11101 10100110 dddddddd` (R335). -/
  | andIndIdx (x : IdxReg) (d : Byte)
  /-- `XOR IDXh/IDXl`: `11i11101 1010110h` (R336). -/
  | xorIdxHalf (x : IdxReg) (h : Half)
  /-- `XOR (IDX+d)`: `11i11101 10101110 dddddddd` (R336). -/
  | xorIndIdx (x : IdxReg) (d : Byte)
  /-- `OR IDXh/IDXl`: `11i11101 1011010h` (R337). -/
  | orIdxHalf (x : IdxReg) (h : Half)
  /-- `OR (IDX+d)`: `11i11101 10110110 dddddddd` (R337). -/
  | orIndIdx (x : IdxReg) (d : Byte)
  /-- `CP IDXh/IDXl`: `11i11101 1011110h` (R338). -/
  | cpIdxHalf (x : IdxReg) (h : Half)
  /-- `CP (IDX+d)`: `11i11101 10111110 dddddddd` (R338). -/
  | cpIndIdx (x : IdxReg) (d : Byte)
  /-- `POP IDX`: `11i11101 11100001` (R273). -/
  | popIdx (x : IdxReg)
  /-- `EX (SP),IDX`: `11i11101 11100011` (R304). -/
  | exIndSpIdx (x : IdxReg)
  /-- `PUSH IDX`: `11i11101 11100101` (R271). -/
  | pushIdx (x : IdxReg)
  /-- `JP (IDX)`: `11i11101 11101001` (R464). -/
  | jpIndIdx (x : IdxReg)
  /-- `LD SP,IDX`: `11i11101 11111001` (R269). -/
  | ldSpIdx (x : IdxReg)
  /-- `(ignored index prefix)`: `11i11101 aaaaaaaa` (R358). -/
  | ignoredIndexPrefix (x : IdxReg) (op : Byte)
  -- The DD/FD+CB table (R131).
  /-- `RLC (IDX+d)`: `11i11101 11001011 dddddddd 00000110` (R406). -/
  | rlcIndIdx (x : IdxReg) (d : Byte)
  /-- `RLC (IDX+d),r`: `11i11101 11001011 dddddddd 00000zzz` (R406). -/
  | rlcIndIdxR (x : IdxReg) (d : Byte) (r : Reg8)
  /-- `RRC (IDX+d)`: `11i11101 11001011 dddddddd 00001110` (R407). -/
  | rrcIndIdx (x : IdxReg) (d : Byte)
  /-- `RRC (IDX+d),r`: `11i11101 11001011 dddddddd 00001zzz` (R407). -/
  | rrcIndIdxR (x : IdxReg) (d : Byte) (r : Reg8)
  /-- `RL (IDX+d)`: `11i11101 11001011 dddddddd 00010110` (R408). -/
  | rlIndIdx (x : IdxReg) (d : Byte)
  /-- `RL (IDX+d),r`: `11i11101 11001011 dddddddd 00010zzz` (R408). -/
  | rlIndIdxR (x : IdxReg) (d : Byte) (r : Reg8)
  /-- `RR (IDX+d)`: `11i11101 11001011 dddddddd 00011110` (R409). -/
  | rrIndIdx (x : IdxReg) (d : Byte)
  /-- `RR (IDX+d),r`: `11i11101 11001011 dddddddd 00011zzz` (R409). -/
  | rrIndIdxR (x : IdxReg) (d : Byte) (r : Reg8)
  /-- `SLA (IDX+d)`: `11i11101 11001011 dddddddd 00100110` (R410). -/
  | slaIndIdx (x : IdxReg) (d : Byte)
  /-- `SLA (IDX+d),r`: `11i11101 11001011 dddddddd 00100zzz` (R410). -/
  | slaIndIdxR (x : IdxReg) (d : Byte) (r : Reg8)
  /-- `SRA (IDX+d)`: `11i11101 11001011 dddddddd 00101110` (R411). -/
  | sraIndIdx (x : IdxReg) (d : Byte)
  /-- `SRA (IDX+d),r`: `11i11101 11001011 dddddddd 00101zzz` (R411). -/
  | sraIndIdxR (x : IdxReg) (d : Byte) (r : Reg8)
  /-- `SLL (IDX+d)`: `11i11101 11001011 dddddddd 00110110` (R412). -/
  | sllIndIdx (x : IdxReg) (d : Byte)
  /-- `SLL (IDX+d),r`: `11i11101 11001011 dddddddd 00110zzz` (R412). -/
  | sllIndIdxR (x : IdxReg) (d : Byte) (r : Reg8)
  /-- `SRL (IDX+d)`: `11i11101 11001011 dddddddd 00111110` (R413). -/
  | srlIndIdx (x : IdxReg) (d : Byte)
  /-- `SRL (IDX+d),r`: `11i11101 11001011 dddddddd 00111zzz` (R413). -/
  | srlIndIdxR (x : IdxReg) (d : Byte) (r : Reg8)
  /-- `BIT b,(IDX+d)`: `11i11101 11001011 dddddddd 01bbbzzz` (R432). -/
  | bitBIndIdx (x : IdxReg) (d : Byte) (b : Fin 8) (z : Fin 8)
  /-- `RES b,(IDX+d)`: `11i11101 11001011 dddddddd 10bbb110` (R435). -/
  | resBIndIdx (x : IdxReg) (d : Byte) (b : Fin 8)
  /-- `RES b,(IDX+d),r`: `11i11101 11001011 dddddddd 10bbbzzz` (R435). -/
  | resBIndIdxR (x : IdxReg) (d : Byte) (b : Fin 8) (r : Reg8)
  /-- `SET b,(IDX+d)`: `11i11101 11001011 dddddddd 11bbb110` (R438). -/
  | setBIndIdx (x : IdxReg) (d : Byte) (b : Fin 8)
  /-- `SET b,(IDX+d),r`: `11i11101 11001011 dddddddd 11bbbzzz` (R438). -/
  | setBIndIdxR (x : IdxReg) (d : Byte) (b : Fin 8) (r : Reg8)
  deriving DecidableEq, Repr

end Sys2Proof
end

