-- ==== Sys2Proof/Machine/State.lean ====
section
/-! DEFINITION. The state of the machine as plain data: the register file of 10_state.md R30 to R47, the
host's inputs (R48), and what stands behind the callbacks (20_memory.md R80 to R82). Also the reasons
a run can stop, and the state after reset. -/

namespace Sys2Proof.Machine

open Sys2Proof

/-- The interrupt mode (10_state.md R43). -/
inductive IntMode where
  | im0 | im1 | im2
  deriving DecidableEq, Repr

/-- A call of a host callback with its arguments (20_memory.md R82). The T-states are counted apart. -/
inductive BusCall where
  /-- `ReadFetch(addr)`: an opcode or prefix byte, or the halted cycle. -/
  | readFetch (addr : Word)
  /-- `ReadMem(addr)`: every other memory read. -/
  | readMem (addr : Word)
  /-- `WriteMem(addr, v)`. -/
  | writeMem (addr : Word) (v : Byte)
  /-- `ReadPort(addr)`. -/
  | readPort (addr : Word)
  /-- `WritePort(addr, v)`. -/
  | writePort (addr : Word) (v : Byte)
  /-- `NoRequestMem(addr)`: one internal T-state. -/
  | noRequestMem (addr : Word)
  /-- `NoRequestPort(addr)`: exists, and no rule issues it (92_eei_decisions.md D20). -/
  | noRequestPort (addr : Word)
  /-- `AcknowledgeReset()`. -/
  | ackReset
  /-- `AcknowledgeNmi()`. -/
  | ackNmi
  /-- `AcknowledgeInt()`. -/
  | ackInt
  deriving DecidableEq, Repr

/-- Why a host action or a step stops with a fault. No step raises one: the Z80 core has no
instruction faults (60_exceptions.md R530; 30_encoding.md R120). -/
inductive Fault where
  /-- The `InvalidState` error of 10_state.md R50 and 60_exceptions.md R531 (b): raised by
  `State.restore`, a host action between steps, never by a step. Safe: nothing is changed. -/
  | invalidState
  deriving DecidableEq, Repr

/-- Why a step has no meaning in the model. -/
inductive Refusal where
  /-- Raised by an arm of `exec` whose instruction has no meaning yet. Safe. No arm raises it. -/
  | notModelled (mnemonic : String)
  deriving DecidableEq, Repr

/-- Memory as (address, byte) pairs in one canonical form (`Memory.wf`): addresses strictly rising
and below 2^16, and no entry that an unlisted address reads as anyway. -/
abbrev Memory := List Host.Cell

structure State where
  /-- AF, A the high byte and F the low byte (10_state.md R31, R32, R40). -/
  af : Word
  /-- BC (R31, R32). -/
  bc : Word
  /-- DE (R31, R32). -/
  de : Word
  /-- HL (R31, R32). -/
  hl : Word
  /-- AF' of the shadow set (R33). -/
  afAlt : Word
  /-- BC' (R33). -/
  bcAlt : Word
  /-- DE' (R33). -/
  deAlt : Word
  /-- HL' (R33). -/
  hlAlt : Word
  /-- IX (R34). -/
  ix : Word
  /-- IY (R34). -/
  iy : Word
  /-- SP (R35). -/
  sp : Word
  /-- PC (R36). -/
  pc : Word
  /-- I, the interrupt-vector byte (R37). -/
  i : Byte
  /-- R, the memory-refresh byte (R38). -/
  r : Byte
  /-- MEMPTR, also WZ (R39). -/
  memptr : Word
  /-- IFF1 (R42). -/
  iff1 : Bool
  /-- IFF2 (R42). -/
  iff2 : Bool
  /-- IM (R43). -/
  im : IntMode
  /-- HALTED (R44). -/
  halted : Bool
  /-- INT_BLOCKED, the "prefix pending" flag (R45). -/
  intBlocked : Bool
  /-- PENDING_INDEX, none for NONE (R46). -/
  pendingIndex : Option IdxReg
  /-- T, the T-state counter, unbounded (R47). -/
  tStates : Nat
  /-- Input `ResetRequested` (R48), set by the host. -/
  resetRequested : Bool
  /-- Input `NmiRequested` (R48). -/
  nmiRequested : Bool
  /-- Input `IntRequested` (R48). -/
  intRequested : Bool
  /-- Input `DataBus` (R48). -/
  dataBus : Byte
  /-- What the core has written to the host's memory (20_memory.md R80; logs 3 and 4). -/
  mem : Memory
  /-- THE MODEL'S OWN: the bytes the host will answer to the next memory reads, whatever address they
  name (R82: "supplied by the host (an oracle)"); past its end a read answers what `mem` holds
  (log 11). -/
  memIn : List Byte
  /-- THE MODEL'S OWN: the bytes the host will answer to the next port reads (R81, U6; log 5). -/
  portIn : List Byte
  /-- THE MODEL'S OWN: how many free values have been drawn (logs 5 and 7). -/
  draws : Nat
  /-- THE MODEL'S OWN: the callbacks issued so far, newest first (R82; log 6). -/
  bus : List BusCall
  deriving DecidableEq, Repr

/-- The state at power-on, every register as 10_state.md R51 gives it (log 1, DEDUCED). The inputs,
the memory nothing has written, the two queues of answers, the draw counter and the callback log have
no value in the spec (logs 2 to 7 and 11, DESIGN CHOICE). -/
def State.reset : State where
  af := 0
  bc := 0
  de := 0
  hl := 0
  afAlt := 0
  bcAlt := 0
  deAlt := 0
  hlAlt := 0
  ix := 0
  iy := 0
  sp := 0
  pc := 0
  i := 0
  r := 0
  memptr := 0
  iff1 := false
  iff2 := false
  im := .im0
  halted := false
  intBlocked := false
  pendingIndex := none
  tStates := 0
  resetRequested := false
  nmiRequested := false
  intRequested := false
  dataBus := 0
  mem := []
  memIn := []
  portIn := []
  draws := 0
  bus := []

end Sys2Proof.Machine
end

