-- ==== Sys2Proof/Machine/Memory.lean ====
section
/-! DEFINITION. The host's memory as one flat space of 2^16 bytes (20_memory.md R80), read and written
a byte at a time (R85). It is what a memory read answers when the host names no answer of its own
(R90: "the last byte the core wrote there"; log 3, DESIGN CHOICE). -/

namespace Sys2Proof.Machine

open Sys2Proof

/-- What an address that is not listed reads as. The spec leaves memory that nothing has written to
the host (93_implementation_defined.md U5); 0x00 is the model's choice (log 4, DESIGN CHOICE,
unsafe). -/
def Memory.unlisted : Byte := 0x00

/-- The canonical form from address `lo` on. -/
def Memory.wfFrom (lo : Nat) : Memory → Bool
  | [] => true
  | (a, v) :: m => decide (lo ≤ a) && decide (a < 65536) && v != Memory.unlisted && wfFrom (a + 1) m

/-- The canonical form: addresses strictly rising and below 2^16, no entry equal to
`Memory.unlisted`. -/
def Memory.wf (m : Memory) : Bool := Memory.wfFrom 0 m

/-- The byte at an address. -/
def Memory.read : Memory → Nat → Byte
  | [], _ => Memory.unlisted
  | (b, w) :: m, a => if a < b then Memory.unlisted else if a = b then w else read m a

/-- Put a byte at the front of the cells above it, listing it only if it must be. -/
def Memory.cons (a : Nat) (v : Byte) (m : Memory) : Memory :=
  if v = Memory.unlisted then m else (a, v) :: m

/-- Memory after one byte is written. Cells at or below a removed address cannot follow it in the
canonical form; dropping them keeps the read laws true of every list. -/
def Memory.write : Memory → Nat → Byte → Memory
  | [], a, v => Memory.cons a v []
  | (b, w) :: m, a, v =>
    if a < b then Memory.cons a v ((b, w) :: m)
    else if a = b then Memory.cons a v (m.dropWhile fun c => decide (c.1 ≤ a))
    else (b, w) :: write m a v

/-- Memory after bytes are written from an address up, wrapping at 2^16. -/
def Memory.writeBytes (m : Memory) (a : Word) : List Byte → Memory
  | [] => m
  | v :: vs => writeBytes (m.write a.toNat v) (a + 1) vs

end Sys2Proof.Machine
end

