-- ==== Sys2Proof/Machine/Ops.lean ====
section
/-! DEFINITION. The named operations over registers, memory and ports: register access (00_scope.md
R9), the bus primitives (R10), the instruction-stream primitives (R11), and the signal services with
the return from them (60_exceptions.md R538 to R543; 48_jump_call_return.md R470, R471). A primitive
that answers a value gives the pair of the value and the state after it. -/

namespace Sys2Proof.Machine

open Sys2Proof

/-! ## Register access (10_state.md R31 to R34) -/

/-- A, the high byte of AF. -/
def State.a (s : State) : Byte := hiByte s.af

/-- F, the low byte of AF. -/
def State.f (s : State) : Byte := loByte s.af

/-- `A <- v`. -/
def State.setA (s : State) (v : Byte) : State := { s with af := join v (loByte s.af) }

/-- `F <- v`: all eight bits (R40). -/
def State.setF (s : State) (v : Byte) : State := { s with af := join (hiByte s.af) v }

/-- `r8[k]` as a register (30_encoding.md R112). -/
def State.reg (s : State) (r : Reg8) : Byte :=
  match r with
  | .b => hiByte s.bc
  | .c => loByte s.bc
  | .d => hiByte s.de
  | .e => loByte s.de
  | .h => hiByte s.hl
  | .l => loByte s.hl
  | .a => hiByte s.af

/-- `r8[k] <- v`: one byte of its pair (R32). -/
def State.setReg (s : State) (r : Reg8) (v : Byte) : State :=
  match r with
  | .b => { s with bc := join v (loByte s.bc) }
  | .c => { s with bc := join (hiByte s.bc) v }
  | .d => { s with de := join v (loByte s.de) }
  | .e => { s with de := join (hiByte s.de) v }
  | .h => { s with hl := join v (loByte s.hl) }
  | .l => { s with hl := join (hiByte s.hl) v }
  | .a => { s with af := join v (loByte s.af) }

/-- `rp[k]` (30_encoding.md R113). -/
def State.pairSp (s : State) (p : PairSp) : Word :=
  match p with
  | .bc => s.bc
  | .de => s.de
  | .hl => s.hl
  | .sp => s.sp

/-- `rp[k] <- v`. -/
def State.setPairSp (s : State) (p : PairSp) (v : Word) : State :=
  match p with
  | .bc => { s with bc := v }
  | .de => { s with de := v }
  | .hl => { s with hl := v }
  | .sp => { s with sp := v }

/-- `rp2[k]` (R113). -/
def State.pairAf (s : State) (p : PairAf) : Word :=
  match p with
  | .bc => s.bc
  | .de => s.de
  | .hl => s.hl
  | .af => s.af

/-- `rp2[k] <- v`. -/
def State.setPairAf (s : State) (p : PairAf) (v : Word) : State :=
  match p with
  | .bc => { s with bc := v }
  | .de => { s with de := v }
  | .hl => { s with hl := v }
  | .af => { s with af := v }

/-- `IDX` (00_scope.md R14). -/
def State.idx (s : State) (x : IdxReg) : Word :=
  match x with
  | .ix => s.ix
  | .iy => s.iy

/-- `IDX <- v`. -/
def State.setIdx (s : State) (x : IdxReg) (v : Word) : State :=
  match x with
  | .ix => { s with ix := v }
  | .iy => { s with iy := v }

/-- `IDXh` or `IDXl` (10_state.md R34). -/
def State.half (s : State) (x : IdxReg) (h : Half) : Byte :=
  match h with
  | .high => hiByte (s.idx x)
  | .low => loByte (s.idx x)

/-- `IDXh <- v` or `IDXl <- v`: the other half is kept. -/
def State.setHalf (s : State) (x : IdxReg) (h : Half) (v : Byte) : State :=
  match h with
  | .high => s.setIdx x (join v (loByte (s.idx x)))
  | .low => s.setIdx x (join (hiByte (s.idx x)) v)

/-- `pp` of `ADD IDX,pp` (45_arith16.md R383). -/
def State.pairIdx (s : State) (x : IdxReg) (p : PairIdx) : Word :=
  match p with
  | .bc => s.bc
  | .de => s.de
  | .idx => s.idx x
  | .sp => s.sp

/-! ## Bus primitives (00_scope.md R10) -/

/-- The byte the host's memory holds at an address. -/
def State.byteAt (s : State) (a : Word) : Byte := s.mem.read a.toNat

/-- The byte that the memory read k reads from now answers, if it names this address: the one the host
has named for it, else what its memory holds (20_memory.md R82, R90; logs 3 and 11). -/
def State.memAnswer (s : State) (k : Nat) (a : Word) : Byte := s.memIn.getD k (s.byteAt a)

/-- A read callback is issued: each answer the host has named is used once. -/
def State.issueRead (s : State) (c : BusCall) (cost : Nat) : State :=
  { s with memIn := s.memIn.drop 1, bus := c :: s.bus, tStates := s.tStates + cost }

/-- `MemRead(a, 1)`. -/
def State.memRead (s : State) (a : Word) : Byte × State := (s.memAnswer 0 a, s.issueRead (.readMem a) 3)

/-- `MemWrite(a, 1, v)`. -/
def State.memWrite (s : State) (a : Word) (v : Byte) : State :=
  { s with mem := s.mem.write a.toNat v, bus := .writeMem a v :: s.bus, tStates := s.tStates + 3 }

/-- `MemRead(a, 2)`: low byte at a, high byte at a + 1. -/
def State.memRead16 (s : State) (a : Word) : Word × State :=
  let lo := s.memRead a
  let hi := lo.2.memRead (a + 1)
  (join hi.1 lo.1, hi.2)

/-- `MemWrite(a, 2, v)`: low byte at a, then high byte at a + 1. -/
def State.memWrite16 (s : State) (a v : Word) : State :=
  (s.memWrite a (loByte v)).memWrite (a + 1) (hiByte v)

/-- The byte that a port read now answers: the next one the host has named, else a free value
(93_implementation_defined.md U6; log 5). -/
def State.portByte (s : State) (p : Word) : Byte :=
  match s.portIn with
  | v :: _ => v
  | [] => Config.freePortByte s.draws p

/-- `PortRead(p)`: each answer is used once. -/
def State.portRead (s : State) (p : Word) : Byte × State :=
  (s.portByte p,
    { s with
      portIn := s.portIn.tail
      draws := s.draws + 1
      bus := .readPort p :: s.bus
      tStates := s.tStates + 4 })

/-- `PortWrite(p, v)`. -/
def State.portWrite (s : State) (p : Word) (v : Byte) : State :=
  { s with bus := .writePort p v :: s.bus, tStates := s.tStates + 4 }

/-- `Idle(a, n)`: n calls of `NoRequestMem(a)`. -/
def State.idle (s : State) (a : Word) (n : Nat) : State :=
  { s with bus := List.replicate n (.noRequestMem a) ++ s.bus, tStates := s.tStates + n }

/-- `RefreshInc()` (R11): bit 7 is kept, the low seven bits count modulo 128. -/
def refreshInc (r : Byte) : Byte := (r &&& 0x80) ||| ((r + 1) &&& 0x7F)

/-- `FetchM1()`: the byte is `memAnswer 0` at PC before it. -/
def State.fetchM1 (s : State) : State :=
  { s.issueRead (.readFetch s.pc) 4 with pc := s.pc + 1, r := refreshInc s.r }

/-- n M1 fetches one after the other. -/
def State.fetchM1s : Nat → State → State
  | 0, s => s
  | n + 1, s => fetchM1s n s.fetchM1

/-! ## Instruction-stream primitives (00_scope.md R11) -/

/-- `Imm8()`: the read of the operand byte at PC. The value is the one the decoded instruction holds
(log 16, DEDUCED). -/
def State.imm8 (s : State) : State := { s.issueRead (.readMem s.pc) 3 with pc := s.pc + 1 }

/-- `Imm16()`: two operand bytes, the low one first. -/
def State.imm16 (s : State) : State := s.imm8.imm8

/-- `Push16(v)`: the high byte to SP - 1, then the low byte to SP - 2. -/
def State.push16 (s : State) (v : Word) : State :=
  let s1 := { s with sp := s.sp - 1 }.memWrite (s.sp - 1) (hiByte v)
  { s1 with sp := s1.sp - 1 }.memWrite (s1.sp - 1) (loByte v)

/-- `Pop16()`: the low byte from SP, then the high byte from SP + 1. -/
def State.pop16 (s : State) : Word × State :=
  let lo := s.memRead s.sp
  let s1 := { lo.2 with sp := s.sp + 1 }
  let hi := s1.memRead s1.sp
  (join hi.1 lo.1, { hi.2 with sp := s1.sp + 1 })

/-- `IRaddr`: I : R at the moment it is used. -/
def State.irAddr (s : State) : Word := join s.i s.r

/-! ## Taking a signal and returning from it -/

/-- The part of an interrupt entry that the NMI and INT services share (60_exceptions.md R537, R539,
R540): acknowledge first (R544), leave HALT past the HALT byte, one refresh increment and the
acknowledge T-states, push PC. -/
def State.enterInterrupt (s : State) (ack : BusCall) (cost : Nat) : State :=
  let s1 := { s with
    bus := ack :: s.bus
    halted := false
    pc := if s.halted then s.pc + 1 else s.pc
    r := refreshInc s.r
    tStates := s.tStates + cost }
  s1.push16 s1.pc

/-- Go to an address and leave it in MEMPTR. -/
def State.goTo (s : State) (a : Word) : State := { s with pc := a, memptr := a }

/-- `ServiceNmi()` (60_exceptions.md R539): IFF2 := IFF1, then IFF1 := 0. -/
def State.serviceNmi (s : State) : State :=
  let s1 := { s with intBlocked := false }.enterInterrupt .ackNmi 5
  { s1 with iff2 := s1.iff1, iff1 := false }.goTo 0x0066

/-- The vector of an INT by interrupt mode (R541 to R543). -/
def State.intVector (s : State) : Word × State :=
  match s.im with
  | .im0 => (0x0038, s)
  | .im1 => (0x0038, s)
  | .im2 => s.memRead16 (join s.i s.dataBus)

/-- `ServiceInt()` (R540). -/
def State.serviceInt (s : State) : State :=
  let s1 := { s with iff1 := false, iff2 := false }.enterInterrupt .ackInt 7
  let v := s1.intVector
  v.2.goTo v.1

/-- `ServiceReset()` (R538). The registers R538 does not write are unspecified after it (10_state.md
R52: "a model draws any value"): twelve free values (log 7). -/
def State.serviceReset (s : State) : State :=
  { s with
    bus := .ackReset :: s.bus
    pc := 0x0000
    i := 0x00
    r := 0x00
    im := .im0
    iff1 := false
    iff2 := false
    halted := false
    intBlocked := false
    pendingIndex := none
    tStates := s.tStates + Config.tReset
    af := Config.freeResetWord s.draws
    bc := Config.freeResetWord (s.draws + 1)
    de := Config.freeResetWord (s.draws + 2)
    hl := Config.freeResetWord (s.draws + 3)
    afAlt := Config.freeResetWord (s.draws + 4)
    bcAlt := Config.freeResetWord (s.draws + 5)
    deAlt := Config.freeResetWord (s.draws + 6)
    hlAlt := Config.freeResetWord (s.draws + 7)
    ix := Config.freeResetWord (s.draws + 8)
    iy := Config.freeResetWord (s.draws + 9)
    sp := Config.freeResetWord (s.draws + 10)
    memptr := Config.freeResetWord (s.draws + 11)
    draws := s.draws + 12 }

/-- A halted cycle (30_encoding.md R119): `ReadFetch(PC)` with the byte discarded, PC unchanged. -/
def State.haltedCycle (s : State) : State :=
  { s.issueRead (.readFetch s.pc) 4 with r := refreshInc s.r }

/-- The return of RET (48_jump_call_return.md R468): PC and MEMPTR from the stack. -/
def State.return (s : State) : State :=
  let p := s.pop16
  p.2.goTo p.1

/-- The return from an interrupt of RETI and RETN (R470, R471): IFF1 := IFF2 as well. -/
def State.returnFromInterrupt (s : State) : State :=
  let s1 := s.return
  { s1 with iff1 := s1.iff2 }

end Sys2Proof.Machine
end

