-- ==== Sys2Proof/Machine/Operands.lean ====
section
/-! DEFINITION. The operand forms: the displaced address (IDX+d), the source operand of the 8-bit ALU
(44_arith8_control.md R330), the operands of the CB and DD/FD+CB tables (46_rotate_shift.md R404,
R405), and the condition tests (30_encoding.md R114). -/

namespace Sys2Proof.Machine

open Sys2Proof

/-- The effective address `IDX + sext_16(d)` modulo 2^16 (30_encoding.md R117). -/
def State.idxAddr (s : State) (x : IdxReg) (d : Byte) : Word := s.idx x + sext16 d

/-- The address (IDX+d) of a DD/FD instruction: read d, five idle T-states at the address of d, and
MEMPTR takes the effective address (R235, R330). -/
def State.idxOperand (s : State) (x : IdxReg) (d : Byte) : Word × State :=
  let s1 := s.imm8
  let s2 := s1.idle (s1.pc - 1) 5
  (s2.idxAddr x d, { s2 with memptr := s2.idxAddr x d })

/-- The byte at (IDX+d) of a DD/FD instruction. -/
def State.readIdx (s : State) (x : IdxReg) (d : Byte) : Byte × State :=
  let o := s.idxOperand x d
  o.2.memRead o.1

/-- `cond(cc)` (30_encoding.md R114), on the current F (R125). -/
def condHolds (cc : Cond) (f : Byte) : Bool :=
  match cc with
  | .nz => !flagZ f
  | .z => flagZ f
  | .nc => !flagC f
  | .c => flagC f
  | .po => !flagPV f
  | .pe => flagPV f
  | .p => !flagS f
  | .m => flagS f

/-- The condition `JR cc` tests (R114). -/
def jrCondHolds (cc : JrCond) (f : Byte) : Bool :=
  match cc with
  | .nz => !flagZ f
  | .z => flagZ f
  | .nc => !flagC f
  | .c => flagC f

/-- A read-modify-write of the byte at an address, with its one idle T-state (R340, R404): the
operation takes the byte and F to the new byte and F. Answers the byte written. -/
def State.modify (s : State) (a : Word) (op : Byte → Byte → Byte × Byte) : Byte × State :=
  let m := s.memRead a
  let p := op m.1 s.f
  (p.1, ((m.2.idle a 1).setF p.2).memWrite a p.1)

/-- The same on a register (R404). -/
def State.modifyReg (s : State) (r : Reg8) (op : Byte → Byte → Byte × Byte) : State :=
  let p := op (s.reg r) s.f
  (s.setF p.2).setReg r p.1

/-- The same on an index half (44_arith8_control.md R339). -/
def State.modifyHalf (s : State) (x : IdxReg) (h : Half) (op : Byte → Byte → Byte × Byte) : State :=
  let p := op (s.half x h) s.f
  (s.setF p.2).setHalf x h p.1

/-- The same on (IDX+d) of the DD/FD table (R341). -/
def State.modifyIdx (s : State) (x : IdxReg) (d : Byte) (op : Byte → Byte → Byte × Byte) : State :=
  let o := s.idxOperand x d
  (o.2.modify o.1 op).2

/-- The same on (IDX+d) of the DD/FD+CB table (46_rotate_shift.md R405), whose d the step has already
read; with a register copy the byte written also goes to that register. -/
def State.modifyIdxCb (s : State) (x : IdxReg) (d : Byte) (copy : Option Reg8)
    (op : Byte → Byte → Byte × Byte) : State :=
  let ea := s.idxAddr x d
  let p := { s with memptr := ea }.modify ea op
  match copy with
  | some r => p.2.setReg r p.1
  | none => p.2

end Sys2Proof.Machine
end

