-- ==== Sys2Proof/Machine/Arith16.lean ====
section
/-! DEFINITION. The 16-bit arithmetic (45_arith16.md R380 to R387). -/

namespace Sys2Proof.Machine

open Sys2Proof

/-- What the 16-bit additions share: seven idle T-states at I : R, and MEMPTR the destination plus 1
(R380 to R383). -/
def State.wide (s : State) (dest : Word) : State := { s.idle s.irAddr 7 with memptr := dest + 1 }

/-- `ADD HL,ss` (R380). -/
def execAddHlSs (ss : PairSp) (s : State) : Host.Outcome State Fault Refusal :=
  let p := add16 s.hl (s.pairSp ss) s.f
  .next { (s.wide s.hl).setF p.2 with hl := p.1 }

/-- `ADC HL,ss` (R381). -/
def execAdcHlSs (ss : PairSp) (s : State) : Host.Outcome State Fault Refusal :=
  let p := adc16 s.hl (s.pairSp ss) (flagC s.f)
  .next { (s.wide s.hl).setF p.2 with hl := p.1 }

/-- `SBC HL,ss` (R382). -/
def execSbcHlSs (ss : PairSp) (s : State) : Host.Outcome State Fault Refusal :=
  let p := sbc16 s.hl (s.pairSp ss) (flagC s.f)
  .next { (s.wide s.hl).setF p.2 with hl := p.1 }

/-- `ADD IDX,pp` (R383). -/
def execAddIdxPp (x : IdxReg) (pp : PairIdx) (s : State) : Host.Outcome State Fault Refusal :=
  let p := add16 (s.idx x) (s.pairIdx x pp) s.f
  .next (((s.wide (s.idx x)).setF p.2).setIdx x p.1)

/-- `INC ss` (R384). -/
def execIncSs (ss : PairSp) (s : State) : Host.Outcome State Fault Refusal :=
  .next ((s.idle s.irAddr 2).setPairSp ss (s.pairSp ss + 1))

/-- `INC IDX` (R385). -/
def execIncIdx (x : IdxReg) (s : State) : Host.Outcome State Fault Refusal :=
  .next ((s.idle s.irAddr 2).setIdx x (s.idx x + 1))

/-- `DEC ss` (R386). -/
def execDecSs (ss : PairSp) (s : State) : Host.Outcome State Fault Refusal :=
  .next ((s.idle s.irAddr 2).setPairSp ss (s.pairSp ss - 1))

/-- `DEC IDX` (R387). -/
def execDecIdx (x : IdxReg) (s : State) : Host.Outcome State Fault Refusal :=
  .next ((s.idle s.irAddr 2).setIdx x (s.idx x - 1))

end Sys2Proof.Machine
end

