-- ==== Sys2Proof/Machine/Arith8.lean ====
section
/-! DEFINITION. The 8-bit ALU in its five operand forms, INC, DEC, and the accumulator and flag operations
(44_arith8_control.md R330 to R349). -/

namespace Sys2Proof.Machine

open Sys2Proof

/-- The eight ALU operations (30_encoding.md R115). -/
inductive AluOp where
  | add | adc | sub | sbc | and | xor | or | cp
  deriving DecidableEq, Repr

/-- A and F after an operation on A, the operand and F (R331 to R338); CP keeps A. -/
def alu (op : AluOp) (a v fin : Byte) : Byte × Byte :=
  match op with
  | .add => add8 a v false
  | .adc => add8 a v (flagC fin)
  | .sub => sub8 a v false
  | .sbc => sub8 a v (flagC fin)
  | .and => (a &&& v, logic (a &&& v) true)
  | .xor => (a ^^^ v, logic (a ^^^ v) false)
  | .or => (a ||| v, logic (a ||| v) false)
  | .cp => (a, cp8 a v)

/-- A and F written by an operation on an operand already read. -/
def State.aluApply (s : State) (op : AluOp) (v : Byte) : State :=
  let p := alu op s.a v s.f
  (s.setF p.2).setA p.1

/-- Form `r` of R330. -/
def State.aluReg (s : State) (op : AluOp) (r : Reg8) : State := s.aluApply op (s.reg r)

/-- Form `(HL)` of R330. -/
def State.aluHl (s : State) (op : AluOp) : State :=
  let m := s.memRead s.hl
  m.2.aluApply op m.1

/-- Form `n` of R330. -/
def State.aluImm (s : State) (op : AluOp) (n : Byte) : State := s.imm8.aluApply op n

/-- Forms `IDXh` and `IDXl` of R330. -/
def State.aluHalf (s : State) (op : AluOp) (x : IdxReg) (h : Half) : State := s.aluApply op (s.half x h)

/-- Form `(IDX+d)` of R330. -/
def State.aluIdx (s : State) (op : AluOp) (x : IdxReg) (d : Byte) : State :=
  let m := s.readIdx x d
  m.2.aluApply op m.1

/-- `ADD A,r` (R331). -/
def execAddAR (r : Reg8) (s : State) : Host.Outcome State Fault Refusal :=
  .next (s.aluReg .add r)

/-- `ADD A,(HL)` (R331). -/
def execAddAIndHl (s : State) : Host.Outcome State Fault Refusal :=
  .next (s.aluHl .add)

/-- `ADD A,n` (R331). -/
def execAddAN (n : Byte) (s : State) : Host.Outcome State Fault Refusal :=
  .next (s.aluImm .add n)

/-- `ADD A,IDXh` and `ADD A,IDXl` (R331). -/
def execAddAIdxHalf (x : IdxReg) (h : Half) (s : State) : Host.Outcome State Fault Refusal :=
  .next (s.aluHalf .add x h)

/-- `ADD A,(IDX+d)` (R331). -/
def execAddAIndIdx (x : IdxReg) (d : Byte) (s : State) : Host.Outcome State Fault Refusal :=
  .next (s.aluIdx .add x d)

/-- `ADC A,r` (R332). -/
def execAdcAR (r : Reg8) (s : State) : Host.Outcome State Fault Refusal :=
  .next (s.aluReg .adc r)

/-- `ADC A,(HL)` (R332). -/
def execAdcAIndHl (s : State) : Host.Outcome State Fault Refusal :=
  .next (s.aluHl .adc)

/-- `ADC A,n` (R332). -/
def execAdcAN (n : Byte) (s : State) : Host.Outcome State Fault Refusal :=
  .next (s.aluImm .adc n)

/-- `ADC A,IDXh` and `ADC A,IDXl` (R332). -/
def execAdcAIdxHalf (x : IdxReg) (h : Half) (s : State) : Host.Outcome State Fault Refusal :=
  .next (s.aluHalf .adc x h)

/-- `ADC A,(IDX+d)` (R332). -/
def execAdcAIndIdx (x : IdxReg) (d : Byte) (s : State) : Host.Outcome State Fault Refusal :=
  .next (s.aluIdx .adc x d)

/-- `SUB r` (R333). -/
def execSubR (r : Reg8) (s : State) : Host.Outcome State Fault Refusal :=
  .next (s.aluReg .sub r)

/-- `SUB (HL)` (R333). -/
def execSubIndHl (s : State) : Host.Outcome State Fault Refusal :=
  .next (s.aluHl .sub)

/-- `SUB n` (R333). -/
def execSubN (n : Byte) (s : State) : Host.Outcome State Fault Refusal :=
  .next (s.aluImm .sub n)

/-- `SUB IDXh` and `SUB IDXl` (R333). -/
def execSubIdxHalf (x : IdxReg) (h : Half) (s : State) : Host.Outcome State Fault Refusal :=
  .next (s.aluHalf .sub x h)

/-- `SUB (IDX+d)` (R333). -/
def execSubIndIdx (x : IdxReg) (d : Byte) (s : State) : Host.Outcome State Fault Refusal :=
  .next (s.aluIdx .sub x d)

/-- `SBC A,r` (R334). -/
def execSbcAR (r : Reg8) (s : State) : Host.Outcome State Fault Refusal :=
  .next (s.aluReg .sbc r)

/-- `SBC A,(HL)` (R334). -/
def execSbcAIndHl (s : State) : Host.Outcome State Fault Refusal :=
  .next (s.aluHl .sbc)

/-- `SBC A,n` (R334). -/
def execSbcAN (n : Byte) (s : State) : Host.Outcome State Fault Refusal :=
  .next (s.aluImm .sbc n)

/-- `SBC A,IDXh` and `SBC A,IDXl` (R334). -/
def execSbcAIdxHalf (x : IdxReg) (h : Half) (s : State) : Host.Outcome State Fault Refusal :=
  .next (s.aluHalf .sbc x h)

/-- `SBC A,(IDX+d)` (R334). -/
def execSbcAIndIdx (x : IdxReg) (d : Byte) (s : State) : Host.Outcome State Fault Refusal :=
  .next (s.aluIdx .sbc x d)

/-- `AND r` (R335). -/
def execAndR (r : Reg8) (s : State) : Host.Outcome State Fault Refusal :=
  .next (s.aluReg .and r)

/-- `AND (HL)` (R335). -/
def execAndIndHl (s : State) : Host.Outcome State Fault Refusal :=
  .next (s.aluHl .and)

/-- `AND n` (R335). -/
def execAndN (n : Byte) (s : State) : Host.Outcome State Fault Refusal :=
  .next (s.aluImm .and n)

/-- `AND IDXh` and `AND IDXl` (R335). -/
def execAndIdxHalf (x : IdxReg) (h : Half) (s : State) : Host.Outcome State Fault Refusal :=
  .next (s.aluHalf .and x h)

/-- `AND (IDX+d)` (R335). -/
def execAndIndIdx (x : IdxReg) (d : Byte) (s : State) : Host.Outcome State Fault Refusal :=
  .next (s.aluIdx .and x d)

/-- `XOR r` (R336). -/
def execXorR (r : Reg8) (s : State) : Host.Outcome State Fault Refusal :=
  .next (s.aluReg .xor r)

/-- `XOR (HL)` (R336). -/
def execXorIndHl (s : State) : Host.Outcome State Fault Refusal :=
  .next (s.aluHl .xor)

/-- `XOR n` (R336). -/
def execXorN (n : Byte) (s : State) : Host.Outcome State Fault Refusal :=
  .next (s.aluImm .xor n)

/-- `XOR IDXh` and `XOR IDXl` (R336). -/
def execXorIdxHalf (x : IdxReg) (h : Half) (s : State) : Host.Outcome State Fault Refusal :=
  .next (s.aluHalf .xor x h)

/-- `XOR (IDX+d)` (R336). -/
def execXorIndIdx (x : IdxReg) (d : Byte) (s : State) : Host.Outcome State Fault Refusal :=
  .next (s.aluIdx .xor x d)

/-- `OR r` (R337). -/
def execOrR (r : Reg8) (s : State) : Host.Outcome State Fault Refusal :=
  .next (s.aluReg .or r)

/-- `OR (HL)` (R337). -/
def execOrIndHl (s : State) : Host.Outcome State Fault Refusal :=
  .next (s.aluHl .or)

/-- `OR n` (R337). -/
def execOrN (n : Byte) (s : State) : Host.Outcome State Fault Refusal :=
  .next (s.aluImm .or n)

/-- `OR IDXh` and `OR IDXl` (R337). -/
def execOrIdxHalf (x : IdxReg) (h : Half) (s : State) : Host.Outcome State Fault Refusal :=
  .next (s.aluHalf .or x h)

/-- `OR (IDX+d)` (R337). -/
def execOrIndIdx (x : IdxReg) (d : Byte) (s : State) : Host.Outcome State Fault Refusal :=
  .next (s.aluIdx .or x d)

/-- `CP r` (R338). -/
def execCpR (r : Reg8) (s : State) : Host.Outcome State Fault Refusal :=
  .next (s.aluReg .cp r)

/-- `CP (HL)` (R338). -/
def execCpIndHl (s : State) : Host.Outcome State Fault Refusal :=
  .next (s.aluHl .cp)

/-- `CP n` (R338). -/
def execCpN (n : Byte) (s : State) : Host.Outcome State Fault Refusal :=
  .next (s.aluImm .cp n)

/-- `CP IDXh` and `CP IDXl` (R338). -/
def execCpIdxHalf (x : IdxReg) (h : Half) (s : State) : Host.Outcome State Fault Refusal :=
  .next (s.aluHalf .cp x h)

/-- `CP (IDX+d)` (R338). -/
def execCpIndIdx (x : IdxReg) (d : Byte) (s : State) : Host.Outcome State Fault Refusal :=
  .next (s.aluIdx .cp x d)

/-! ## Increment and decrement -/

/-- `INC r` (R339). -/
def execIncR (r : Reg8) (s : State) : Host.Outcome State Fault Refusal :=
  .next (s.modifyReg r inc8)

/-- `INC IDXh` and `INC IDXl` (R339). -/
def execIncIdxHalf (x : IdxReg) (h : Half) (s : State) : Host.Outcome State Fault Refusal :=
  .next (s.modifyHalf x h inc8)

/-- `INC (HL)` (R340). -/
def execIncIndHl (s : State) : Host.Outcome State Fault Refusal :=
  .next (s.modify s.hl inc8).2

/-- `INC (IDX+d)` (R341). -/
def execIncIndIdx (x : IdxReg) (d : Byte) (s : State) : Host.Outcome State Fault Refusal :=
  .next (s.modifyIdx x d inc8)

/-- `DEC r` (R342). -/
def execDecR (r : Reg8) (s : State) : Host.Outcome State Fault Refusal :=
  .next (s.modifyReg r dec8)

/-- `DEC IDXh` and `DEC IDXl` (R342). -/
def execDecIdxHalf (x : IdxReg) (h : Half) (s : State) : Host.Outcome State Fault Refusal :=
  .next (s.modifyHalf x h dec8)

/-- `DEC (HL)` (R343). -/
def execDecIndHl (s : State) : Host.Outcome State Fault Refusal :=
  .next (s.modify s.hl dec8).2

/-- `DEC (IDX+d)` (R344). -/
def execDecIndIdx (x : IdxReg) (d : Byte) (s : State) : Host.Outcome State Fault Refusal :=
  .next (s.modifyIdx x d dec8)

/-! ## Accumulator and flag operations -/

/-- `DAA` (R345). -/
def execDaa (s : State) : Host.Outcome State Fault Refusal :=
  let p := daaF s.a s.f
  .next ((s.setF p.2).setA p.1)

/-- `CPL` (R346): F5 and F3 from the new A. -/
def execCpl (s : State) : Host.Outcome State Fault Refusal :=
  .next ((s.setF (cplF (~~~s.a) s.f)).setA (~~~s.a))

/-- `NEG` and its aliases (R347). -/
def execNeg (_v : Fin 8) (s : State) : Host.Outcome State Fault Refusal :=
  let p := sub8 0x00 s.a false
  .next ((s.setF p.2).setA p.1)

/-- `CCF` (R348). -/
def execCcf (s : State) : Host.Outcome State Fault Refusal :=
  .next (s.setF (ccfF s.a s.f))

/-- `SCF` (R349). -/
def execScf (s : State) : Host.Outcome State Fault Refusal :=
  .next (s.setF (scfF s.a s.f))

end Sys2Proof.Machine
end

