-- ==== Sys2Proof/Machine/BitOps.lean ====
section
/-! DEFINITION. Bit test, reset and set (47_bit.md R430 to R438). -/

namespace Sys2Proof.Machine

open Sys2Proof

/-- RES on a byte: bit b cleared, F kept (R433). -/
def resBit (b : Fin 8) (v fin : Byte) : Byte × Byte := (v &&& ~~~((1 : Byte) <<< b.val), fin)

/-- SET on a byte: bit b set, F kept (R436). -/
def setBit (b : Fin 8) (v fin : Byte) : Byte × Byte := (v ||| ((1 : Byte) <<< b.val), fin)

/-- `BIT b,r` (R430). -/
def execBitBR (b : Fin 8) (r : Reg8) (s : State) : Host.Outcome State Fault Refusal :=
  .next (s.setF (bitF b (s.reg r) (s.reg r) s.f))

/-- `BIT b,(HL)` (R431): F5 and F3 from the high byte of MEMPTR. -/
def execBitBIndHl (b : Fin 8) (s : State) : Host.Outcome State Fault Refusal :=
  let m := s.memRead s.hl
  .next ((m.2.idle s.hl 1).setF (bitF b m.1 (hiByte s.memptr) s.f))

/-- `BIT b,(IDX+d)`, every z (R432): F5 and F3 from the high byte of the effective address. -/
def execBitBIndIdx (x : IdxReg) (d : Byte) (b _z : Fin 8) (s : State) : Host.Outcome State Fault Refusal :=
  let ea := s.idxAddr x d
  let m := { s with memptr := ea }.memRead ea
  .next ((m.2.idle ea 1).setF (bitF b m.1 (hiByte ea) s.f))

/-- `RES b,r` (R433). -/
def execResBR (b : Fin 8) (r : Reg8) (s : State) : Host.Outcome State Fault Refusal :=
  .next (s.modifyReg r (resBit b))

/-- `RES b,(HL)` (R434). -/
def execResBIndHl (b : Fin 8) (s : State) : Host.Outcome State Fault Refusal :=
  .next (s.modify s.hl (resBit b)).2

/-- `RES b,(IDX+d)` (R435). -/
def execResBIndIdx (x : IdxReg) (d : Byte) (b : Fin 8) (s : State) : Host.Outcome State Fault Refusal :=
  .next (s.modifyIdxCb x d none (resBit b))

/-- `RES b,(IDX+d),r` (R435). -/
def execResBIndIdxR (x : IdxReg) (d : Byte) (b : Fin 8) (r : Reg8) (s : State) : Host.Outcome State Fault Refusal :=
  .next (s.modifyIdxCb x d (some r) (resBit b))

/-- `SET b,r` (R436). -/
def execSetBR (b : Fin 8) (r : Reg8) (s : State) : Host.Outcome State Fault Refusal :=
  .next (s.modifyReg r (setBit b))

/-- `SET b,(HL)` (R437). -/
def execSetBIndHl (b : Fin 8) (s : State) : Host.Outcome State Fault Refusal :=
  .next (s.modify s.hl (setBit b)).2

/-- `SET b,(IDX+d)` (R438). -/
def execSetBIndIdx (x : IdxReg) (d : Byte) (b : Fin 8) (s : State) : Host.Outcome State Fault Refusal :=
  .next (s.modifyIdxCb x d none (setBit b))

/-- `SET b,(IDX+d),r` (R438). -/
def execSetBIndIdxR (x : IdxReg) (d : Byte) (b : Fin 8) (r : Reg8) (s : State) : Host.Outcome State Fault Refusal :=
  .next (s.modifyIdxCb x d (some r) (setBit b))

end Sys2Proof.Machine
end

