-- ==== Sys2Proof/Decode.lean ====
section
/-! DEFINITION. The decoder, written from the field split and the five grids of 30_encoding.md
(R110 to R131), total on any bytes; and the encoder, written row by row from the bit patterns of
spec/opcode_table.json. The decoder reads the first four bytes of the stream: no instruction is
longer (R110). -/

namespace Sys2Proof

/-! ## Operand codes -/

/-- The code `r8` of a register (30_encoding.md R112). -/
def Reg8.code : Reg8 → Nat
  | .b => 0 | .c => 1 | .d => 2 | .e => 3 | .h => 4 | .l => 5 | .a => 7

/-- The code `rp` of a pair (R113). -/
def PairSp.code : PairSp → Nat
  | .bc => 0 | .de => 1 | .hl => 2 | .sp => 3

/-- The code `rp2` of a pair (R113). -/
def PairAf.code : PairAf → Nat
  | .bc => 0 | .de => 1 | .hl => 2 | .af => 3

/-- The code of `pp` in `ADD IDX,pp` (45_arith16.md R383). -/
def PairIdx.code : PairIdx → Nat
  | .bc => 0 | .de => 1 | .idx => 2 | .sp => 3

/-- The code of a half: 0 for IDXh, 1 for IDXl (41_load8.md R238). -/
def Half.code : Half → Nat
  | .high => 0 | .low => 1

/-- The condition code (R114). -/
def Cond.code : Cond → Nat
  | .nz => 0 | .z => 1 | .nc => 2 | .c => 3 | .po => 4 | .pe => 5 | .p => 6 | .m => 7

/-- The code `y - 4` of a `JR cc` condition (R114). -/
def JrCond.code : JrCond → Nat
  | .nz => 0 | .z => 1 | .nc => 2 | .c => 3

/-- The prefix byte that selects an index register (R110). -/
def IdxReg.prefixByte : IdxReg → Byte
  | .ix => 0xDD | .iy => 0xFD

/-- The register that an index prefix byte selects (R119). -/
def prefixIdx (b : Byte) : IdxReg := if b = 0xDD then .ix else .iy

/-- `r8[k]`; none for code 6, the memory operand (R112). -/
def reg8? : Nat → Option Reg8
  | 0 => some .b | 1 => some .c | 2 => some .d | 3 => some .e | 4 => some .h | 5 => some .l
  | 6 => none | _ => some .a

/-- `rp[k]` (R113). -/
def pairSp : Nat → PairSp
  | 0 => .bc | 1 => .de | 2 => .hl | _ => .sp

/-- `rp2[k]` (R113). -/
def pairAf : Nat → PairAf
  | 0 => .bc | 1 => .de | 2 => .hl | _ => .af

/-- `pp` of code k (45_arith16.md R383). -/
def pairIdx : Nat → PairIdx
  | 0 => .bc | 1 => .de | 2 => .idx | _ => .sp

/-- The condition of code k (R114). -/
def cond : Nat → Cond
  | 0 => .nz | 1 => .z | 2 => .nc | 3 => .c | 4 => .po | 5 => .pe | 6 => .p | _ => .m

/-- The `JR` condition of code k (R114). -/
def jrCond : Nat → JrCond
  | 0 => .nz | 1 => .z | 2 => .nc | _ => .c

/-- The half that register code 4 or 5 names under an index prefix (R118 item 3). -/
def halfOf (k : Nat) : Half := if k = 4 then .high else .low

/-- Field `x` of an opcode byte (R111). -/
def fieldX (op : Byte) : Nat := op.toNat / 64

/-- Field `y` of an opcode byte (R111). -/
def fieldY (op : Byte) : Nat := op.toNat / 8 % 8

/-- Field `z` of an opcode byte (R111). -/
def fieldZ (op : Byte) : Nat := op.toNat % 8

/-! ## The base table (R127) -/

/-- The ALU operation of code y on a register (R115). -/
def aluRInstr (y : Nat) (r : Reg8) : Instr :=
  match y with
  | 0 => .addAR r | 1 => .adcAR r | 2 => .subR r | 3 => .sbcAR r
  | 4 => .andR r | 5 => .xorR r | 6 => .orR r | _ => .cpR r

/-- The ALU operation of code y on (HL) (R115). -/
def aluHlInstr (y : Nat) : Instr :=
  match y with
  | 0 => .addAIndHl | 1 => .adcAIndHl | 2 => .subIndHl | 3 => .sbcAIndHl
  | 4 => .andIndHl | 5 => .xorIndHl | 6 => .orIndHl | _ => .cpIndHl

/-- The ALU operation of code y on an immediate (R115). -/
def aluNInstr (y : Nat) (n : Byte) : Instr :=
  match y with
  | 0 => .addAN n | 1 => .adcAN n | 2 => .subN n | 3 => .sbcAN n
  | 4 => .andN n | 5 => .xorN n | 6 => .orN n | _ => .cpN n

/-- Quadrant x = 0 of the base table. -/
def decodeBase0 (y z : Nat) (b1 b2 : Byte) : Instr :=
  match z with
  | 0 =>
    match y with
    | 0 => .nop
    | 1 => .exAfAf
    | 2 => .djnz b1
    | 3 => .jr b1
    | _ => .jrCc (jrCond (y - 4)) b1
  | 1 => if y % 2 = 0 then .ldDdNn (pairSp (y / 2)) (join b2 b1) else .addHlSs (pairSp (y / 2))
  | 2 =>
    match y with
    | 0 => .ldIndBcA
    | 1 => .ldAIndBc
    | 2 => .ldIndDeA
    | 3 => .ldAIndDe
    | 4 => .ldIndNnHl (join b2 b1)
    | 5 => .ldHlIndNn (join b2 b1)
    | 6 => .ldIndNnA (join b2 b1)
    | _ => .ldAIndNn (join b2 b1)
  | 3 => if y % 2 = 0 then .incSs (pairSp (y / 2)) else .decSs (pairSp (y / 2))
  | 4 => match reg8? y with | some r => .incR r | none => .incIndHl
  | 5 => match reg8? y with | some r => .decR r | none => .decIndHl
  | 6 => match reg8? y with | some r => .ldRN r b1 | none => .ldIndHlN b1
  | _ =>
    match y with
    | 0 => .rlca
    | 1 => .rrca
    | 2 => .rla
    | 3 => .rra
    | 4 => .daa
    | 5 => .cpl
    | 6 => .scf
    | _ => .ccf

/-- Quadrant x = 1: the register loads and HALT (0x76). -/
def decodeBase1 (y z : Nat) : Instr :=
  match reg8? y, reg8? z with
  | some r, some r' => .ldRR r r'
  | some r, none => .ldRIndHl r
  | none, some r => .ldIndHlR r
  | none, none => .halt

/-- Quadrant x = 3. The four prefix bytes never reach it. -/
def decodeBase3 (y z : Nat) (b1 b2 : Byte) : Instr :=
  match z with
  | 0 => .retCc (cond y)
  | 1 =>
    match y with
    | 1 => .ret
    | 3 => .exx
    | 5 => .jpIndHl
    | 7 => .ldSpHl
    | _ => .popQq (pairAf (y / 2))
  | 2 => .jpCcNn (cond y) (join b2 b1)
  | 3 =>
    match y with
    | 0 => .jpNn (join b2 b1)
    | 2 => .outIndNA b1
    | 3 => .inAIndN b1
    | 4 => .exIndSpHl
    | 5 => .exDeHl
    | 6 => .di
    | _ => .ei
  | 4 => .callCcNn (cond y) (join b2 b1)
  | 5 => if y % 2 = 0 then .pushQq (pairAf (y / 2)) else .callNn (join b2 b1)
  | 6 => aluNInstr y b1
  | _ => .rst (Fin.ofNat 8 y)

/-- The base table, `b1` and `b2` being the bytes after the opcode. -/
def decodeBase (op b1 b2 : Byte) : Instr :=
  match fieldX op with
  | 0 => decodeBase0 (fieldY op) (fieldZ op) b1 b2
  | 1 => decodeBase1 (fieldY op) (fieldZ op)
  | 2 => match reg8? (fieldZ op) with | some r => aluRInstr (fieldY op) r | none => aluHlInstr (fieldY op)
  | _ => decodeBase3 (fieldY op) (fieldZ op) b1 b2

/-! ## The CB table (R128) -/

/-- The rotate or shift of code y on a register (R116). -/
def rotRInstr (y : Nat) (r : Reg8) : Instr :=
  match y with
  | 0 => .rlcR r | 1 => .rrcR r | 2 => .rlR r | 3 => .rrR r
  | 4 => .slaR r | 5 => .sraR r | 6 => .sllR r | _ => .srlR r

/-- The rotate or shift of code y on (HL) (R116). -/
def rotHlInstr (y : Nat) : Instr :=
  match y with
  | 0 => .rlcIndHl | 1 => .rrcIndHl | 2 => .rlIndHl | 3 => .rrIndHl
  | 4 => .slaIndHl | 5 => .sraIndHl | 6 => .sllIndHl | _ => .srlIndHl

/-- The CB table (R128). -/
def decodeCb (op : Byte) : Instr :=
  match reg8? (fieldZ op) with
  | some r =>
    match fieldX op with
    | 0 => rotRInstr (fieldY op) r
    | 1 => .bitBR (Fin.ofNat 8 (fieldY op)) r
    | 2 => .resBR (Fin.ofNat 8 (fieldY op)) r
    | _ => .setBR (Fin.ofNat 8 (fieldY op)) r
  | none =>
    match fieldX op with
    | 0 => rotHlInstr (fieldY op)
    | 1 => .bitBIndHl (Fin.ofNat 8 (fieldY op))
    | 2 => .resBIndHl (Fin.ofNat 8 (fieldY op))
    | _ => .setBIndHl (Fin.ofNat 8 (fieldY op))

/-! ## The ED table (R129) -/

/-- Rows 4x to 7x of the ED table, by the fields y and z; `op` is the whole second byte. -/
def decodeEd1 (op : Byte) (y z : Nat) (b2 b3 : Byte) : Instr :=
  match z with
  | 0 => match reg8? y with | some r => .inRIndC r | none => .inIndC
  | 1 => match reg8? y with | some r => .outIndCR r | none => .outIndCZero
  | 2 => if y % 2 = 0 then .sbcHlSs (pairSp (y / 2)) else .adcHlSs (pairSp (y / 2))
  | 3 =>
    if y % 2 = 0 then .ldIndNnDd (pairSp (y / 2)) (join b3 b2)
    else .ldDdIndNn (pairSp (y / 2)) (join b3 b2)
  | 4 => .neg (Fin.ofNat 8 y)
  | 5 => if y = 1 then .reti else .retn (Fin.ofNat 8 y)
  | 6 =>
    match y with
    | 0 => .imZero 0
    | 1 => .imZero 1
    | 2 => .imOne 0
    | 3 => .imTwo 0
    | 4 => .imZero 2
    | 5 => .imZero 3
    | 6 => .imOne 1
    | _ => .imTwo 1
  | _ =>
    match y with
    | 0 => .ldVectorA
    | 1 => .ldRefreshA
    | 2 => .ldAVector
    | 3 => .ldARefresh
    | 4 => .rrd
    | 5 => .rld
    | _ => .nopEd op

/-- Rows Ax and Bx of the ED table: the block instructions. -/
def decodeEd2 (op : Byte) : Instr :=
  match op.toNat with
  | 0xA0 => .ldi | 0xA1 => .cpi | 0xA2 => .ini | 0xA3 => .outi
  | 0xA8 => .ldd | 0xA9 => .cpd | 0xAA => .ind | 0xAB => .outd
  | 0xB0 => .ldir | 0xB1 => .cpir | 0xB2 => .inir | 0xB3 => .otir
  | 0xB8 => .lddr | 0xB9 => .cpdr | 0xBA => .indr | 0xBB => .otdr
  | _ => .nopEd op

/-- The ED table; every slot without a row is the two-byte no-op (R124, R129). -/
def decodeEd (op b2 b3 : Byte) : Instr :=
  match fieldX op with
  | 1 => decodeEd1 op (fieldY op) (fieldZ op) b2 b3
  | 2 => decodeEd2 op
  | _ => .nopEd op

/-! ## The DD/FD table (R130) and the DD/FD+CB table (R131) -/

/-- The ALU operation of code y on an index half (R115, R118 item 3). -/
def aluHalfInstr (y : Nat) (x : IdxReg) (h : Half) : Instr :=
  match y with
  | 0 => .addAIdxHalf x h | 1 => .adcAIdxHalf x h | 2 => .subIdxHalf x h | 3 => .sbcAIdxHalf x h
  | 4 => .andIdxHalf x h | 5 => .xorIdxHalf x h | 6 => .orIdxHalf x h | _ => .cpIdxHalf x h

/-- The ALU operation of code y on (IDX+d) (R115, R118 item 2). -/
def aluIdxInstr (y : Nat) (x : IdxReg) (d : Byte) : Instr :=
  match y with
  | 0 => .addAIndIdx x d | 1 => .adcAIndIdx x d | 2 => .subIndIdx x d | 3 => .sbcAIndIdx x d
  | 4 => .andIndIdx x d | 5 => .xorIndIdx x d | 6 => .orIndIdx x d | _ => .cpIndIdx x d

/-- Row 0x to 3x of the DD/FD table. -/
def decodeIdx0 (x : IdxReg) (op : Byte) (y z : Nat) (b2 b3 : Byte) : Instr :=
  match z with
  | 1 =>
    if y % 2 = 1 then .addIdxPp x (pairIdx (y / 2))
    else if y = 4 then .ldIdxNn x (join b3 b2) else .ignoredIndexPrefix x op
  | 2 =>
    if y = 4 then .ldIndNnIdx x (join b3 b2)
    else if y = 5 then .ldIdxIndNn x (join b3 b2) else .ignoredIndexPrefix x op
  | 3 => if y = 4 then .incIdx x else if y = 5 then .decIdx x else .ignoredIndexPrefix x op
  | 4 =>
    if y = 6 then .incIndIdx x b2
    else if y = 4 ∨ y = 5 then .incIdxHalf x (halfOf y) else .ignoredIndexPrefix x op
  | 5 =>
    if y = 6 then .decIndIdx x b2
    else if y = 4 ∨ y = 5 then .decIdxHalf x (halfOf y) else .ignoredIndexPrefix x op
  | 6 =>
    if y = 6 then .ldIndIdxN x b2 b3
    else if y = 4 ∨ y = 5 then .ldIdxHalfN x (halfOf y) b2 else .ignoredIndexPrefix x op
  | _ => .ignoredIndexPrefix x op

/-- Rows 4x to 7x of the DD/FD table: beside (IDX+d) the register stays H or L, else codes 4 and 5
name the halves (R118 item 3, 90_conflicts.md C10). -/
def decodeIdx1 (x : IdxReg) (op : Byte) (y z : Nat) (b2 : Byte) : Instr :=
  match reg8? y, reg8? z with
  | some r, none => .ldRIndIdx x r b2
  | none, some r => .ldIndIdxR x b2 r
  | none, none => .ignoredIndexPrefix x op
  | some r, some r' =>
    if y = 4 ∨ y = 5 then
      if z = 4 ∨ z = 5 then .ldIdxHalfIdxHalf x (halfOf y) (halfOf z) else .ldIdxHalfR x (halfOf y) r'
    else if z = 4 ∨ z = 5 then .ldRIdxHalf x r (halfOf z)
    else .ignoredIndexPrefix x op

/-- Rows Cx to Fx of the DD/FD table. -/
def decodeIdx3 (x : IdxReg) (op : Byte) : Instr :=
  match op.toNat with
  | 0xE1 => .popIdx x
  | 0xE3 => .exIndSpIdx x
  | 0xE5 => .pushIdx x
  | 0xE9 => .jpIndIdx x
  | 0xF9 => .ldSpIdx x
  | _ => .ignoredIndexPrefix x op

/-- The DD/FD table, `b2` and `b3` being the bytes after the opcode; an opcode it does not change,
0xED and a further index prefix leave the prefix alone as a one-byte instruction (R118 items 4
and 5, R121, 44_arith8_control.md R358). -/
def decodeIdx (x : IdxReg) (op b2 b3 : Byte) : Instr :=
  match fieldX op with
  | 0 => decodeIdx0 x op (fieldY op) (fieldZ op) b2 b3
  | 1 => decodeIdx1 x op (fieldY op) (fieldZ op) b2
  | 2 =>
    if fieldZ op = 6 then aluIdxInstr (fieldY op) x b2
    else if fieldZ op = 4 ∨ fieldZ op = 5 then aluHalfInstr (fieldY op) x (halfOf (fieldZ op))
    else .ignoredIndexPrefix x op
  | _ => decodeIdx3 x op

/-- The rotate or shift of code y on (IDX+d) (R116, R131). -/
def rotIdxInstr (y : Nat) (x : IdxReg) (d : Byte) : Instr :=
  match y with
  | 0 => .rlcIndIdx x d | 1 => .rrcIndIdx x d | 2 => .rlIndIdx x d | 3 => .rrIndIdx x d
  | 4 => .slaIndIdx x d | 5 => .sraIndIdx x d | 6 => .sllIndIdx x d | _ => .srlIndIdx x d

/-- The rotate or shift of code y on (IDX+d) with a register copy (R116, R131). -/
def rotIdxRInstr (y : Nat) (x : IdxReg) (d : Byte) (r : Reg8) : Instr :=
  match y with
  | 0 => .rlcIndIdxR x d r | 1 => .rrcIndIdxR x d r | 2 => .rlIndIdxR x d r | 3 => .rrIndIdxR x d r
  | 4 => .slaIndIdxR x d r | 5 => .sraIndIdxR x d r | 6 => .sllIndIdxR x d r | _ => .srlIndIdxR x d r

/-- The DD/FD+CB table (R131): the displacement comes before the opcode byte (R110). -/
def decodeIdxCb (x : IdxReg) (d op : Byte) : Instr :=
  match fieldX op with
  | 0 =>
    match reg8? (fieldZ op) with
    | some r => rotIdxRInstr (fieldY op) x d r
    | none => rotIdxInstr (fieldY op) x d
  | 1 => .bitBIndIdx x d (Fin.ofNat 8 (fieldY op)) (Fin.ofNat 8 (fieldZ op))
  | 2 =>
    match reg8? (fieldZ op) with
    | some r => .resBIndIdxR x d (Fin.ofNat 8 (fieldY op)) r
    | none => .resBIndIdx x d (Fin.ofNat 8 (fieldY op))
  | _ =>
    match reg8? (fieldZ op) with
    | some r => .setBIndIdxR x d (Fin.ofNat 8 (fieldY op)) r
    | none => .setBIndIdx x d (Fin.ofNat 8 (fieldY op))

/-- What follows an index prefix (R119, R123). -/
def decodePrefixed (x : IdxReg) (b1 b2 b3 : Byte) : Instr :=
  if b1 = 0xCB then decodeIdxCb x b2 b3 else decodeIdx x b1 b2 b3

/-- The instruction that the next four bytes of the stream begin with: total, as 30_encoding.md R132
says a decoder is. The prefix byte chooses the table (R119). -/
def decodeBytes (b0 b1 b2 b3 : Byte) : Instr :=
  if b0 = 0xCB then decodeCb b1
  else if b0 = 0xED then decodeEd b1 b2 b3
  else if b0 = 0xDD then decodePrefixed .ix b1 b2 b3
  else if b0 = 0xFD then decodePrefixed .iy b1 b2 b3
  else decodeBase b0 b1 b2

/-! ## The encoder -/

/-- The bytes of an instruction in fetch order, row by row from the bit patterns of
spec/opcode_table.json. For the ignored index prefix the second byte is the one looked at, which
belongs to the next instruction (row `ignored_index_prefix`, length 1). -/
def encode (i : Instr) : List Byte :=
  match i with
  | .nop => [0x00]
  | .ldDdNn dd nn => [byteOf (0x01 + 16 * dd.code), loByte nn, hiByte nn]
  | .addHlSs ss => [byteOf (0x09 + 16 * ss.code)]
  | .ldIndBcA => [0x02]
  | .ldAIndBc => [0x0A]
  | .ldIndDeA => [0x12]
  | .ldAIndDe => [0x1A]
  | .ldIndNnHl nn => [0x22, loByte nn, hiByte nn]
  | .ldHlIndNn nn => [0x2A, loByte nn, hiByte nn]
  | .ldIndNnA nn => [0x32, loByte nn, hiByte nn]
  | .ldAIndNn nn => [0x3A, loByte nn, hiByte nn]
  | .incSs ss => [byteOf (0x03 + 16 * ss.code)]
  | .decSs ss => [byteOf (0x0B + 16 * ss.code)]
  | .incR r => [byteOf (0x04 + 8 * r.code)]
  | .incIndHl => [0x34]
  | .decR r => [byteOf (0x05 + 8 * r.code)]
  | .decIndHl => [0x35]
  | .ldRN r n => [byteOf (0x06 + 8 * r.code), n]
  | .ldIndHlN n => [0x36, n]
  | .rlca => [0x07]
  | .rrca => [0x0F]
  | .rla => [0x17]
  | .rra => [0x1F]
  | .daa => [0x27]
  | .cpl => [0x2F]
  | .scf => [0x37]
  | .ccf => [0x3F]
  | .exAfAf => [0x08]
  | .djnz e => [0x10, e]
  | .jr e => [0x18, e]
  | .jrCc cc e => [byteOf (0x20 + 8 * cc.code), e]
  | .halt => [0x76]
  | .ldRR r r' => [byteOf (0x40 + 8 * r.code + r'.code)]
  | .ldRIndHl r => [byteOf (0x46 + 8 * r.code)]
  | .ldIndHlR r => [byteOf (0x70 + r.code)]
  | .addAR r => [byteOf (0x80 + r.code)]
  | .addAIndHl => [0x86]
  | .addAN n => [0xC6, n]
  | .adcAR r => [byteOf (0x88 + r.code)]
  | .adcAIndHl => [0x8E]
  | .adcAN n => [0xCE, n]
  | .subR r => [byteOf (0x90 + r.code)]
  | .subIndHl => [0x96]
  | .subN n => [0xD6, n]
  | .sbcAR r => [byteOf (0x98 + r.code)]
  | .sbcAIndHl => [0x9E]
  | .sbcAN n => [0xDE, n]
  | .andR r => [byteOf (0xA0 + r.code)]
  | .andIndHl => [0xA6]
  | .andN n => [0xE6, n]
  | .xorR r => [byteOf (0xA8 + r.code)]
  | .xorIndHl => [0xAE]
  | .xorN n => [0xEE, n]
  | .orR r => [byteOf (0xB0 + r.code)]
  | .orIndHl => [0xB6]
  | .orN n => [0xF6, n]
  | .cpR r => [byteOf (0xB8 + r.code)]
  | .cpIndHl => [0xBE]
  | .cpN n => [0xFE, n]
  | .retCc cc => [byteOf (0xC0 + 8 * cc.code)]
  | .popQq qq => [byteOf (0xC1 + 16 * qq.code)]
  | .ret => [0xC9]
  | .exx => [0xD9]
  | .jpIndHl => [0xE9]
  | .ldSpHl => [0xF9]
  | .jpCcNn cc nn => [byteOf (0xC2 + 8 * cc.code), loByte nn, hiByte nn]
  | .jpNn nn => [0xC3, loByte nn, hiByte nn]
  | .outIndNA n => [0xD3, n]
  | .inAIndN n => [0xDB, n]
  | .exIndSpHl => [0xE3]
  | .exDeHl => [0xEB]
  | .di => [0xF3]
  | .ei => [0xFB]
  | .callCcNn cc nn => [byteOf (0xC4 + 8 * cc.code), loByte nn, hiByte nn]
  | .pushQq qq => [byteOf (0xC5 + 16 * qq.code)]
  | .callNn nn => [0xCD, loByte nn, hiByte nn]
  | .rst t => [byteOf (0xC7 + 8 * t.val)]
  | .rlcR r => [0xCB, byteOf (0x00 + r.code)]
  | .rlcIndHl => [0xCB, 0x06]
  | .rrcR r => [0xCB, byteOf (0x08 + r.code)]
  | .rrcIndHl => [0xCB, 0x0E]
  | .rlR r => [0xCB, byteOf (0x10 + r.code)]
  | .rlIndHl => [0xCB, 0x16]
  | .rrR r => [0xCB, byteOf (0x18 + r.code)]
  | .rrIndHl => [0xCB, 0x1E]
  | .slaR r => [0xCB, byteOf (0x20 + r.code)]
  | .slaIndHl => [0xCB, 0x26]
  | .sraR r => [0xCB, byteOf (0x28 + r.code)]
  | .sraIndHl => [0xCB, 0x2E]
  | .sllR r => [0xCB, byteOf (0x30 + r.code)]
  | .sllIndHl => [0xCB, 0x36]
  | .srlR r => [0xCB, byteOf (0x38 + r.code)]
  | .srlIndHl => [0xCB, 0x3E]
  | .bitBR b r => [0xCB, byteOf (0x40 + 8 * b.val + r.code)]
  | .bitBIndHl b => [0xCB, byteOf (0x46 + 8 * b.val)]
  | .resBR b r => [0xCB, byteOf (0x80 + 8 * b.val + r.code)]
  | .resBIndHl b => [0xCB, byteOf (0x86 + 8 * b.val)]
  | .setBR b r => [0xCB, byteOf (0xC0 + 8 * b.val + r.code)]
  | .setBIndHl b => [0xCB, byteOf (0xC6 + 8 * b.val)]
  | .inRIndC r => [0xED, byteOf (0x40 + 8 * r.code)]
  | .inIndC => [0xED, 0x70]
  | .outIndCR r => [0xED, byteOf (0x41 + 8 * r.code)]
  | .outIndCZero => [0xED, 0x71]
  | .sbcHlSs ss => [0xED, byteOf (0x42 + 16 * ss.code)]
  | .adcHlSs ss => [0xED, byteOf (0x4A + 16 * ss.code)]
  | .ldIndNnDd dd nn => [0xED, byteOf (0x43 + 16 * dd.code), loByte nn, hiByte nn]
  | .ldDdIndNn dd nn => [0xED, byteOf (0x4B + 16 * dd.code), loByte nn, hiByte nn]
  | .neg v => [0xED, byteOf (0x44 + 8 * v.val)]
  | .retn v => [0xED, byteOf (0x45 + 8 * v.val)]
  | .reti => [0xED, 0x4D]
  | .imZero v => [0xED, byteOf (0x46 + 32 * (v.val / 2) + 8 * (v.val % 2))]
  | .imOne v => [0xED, byteOf (0x56 + 32 * v.val)]
  | .imTwo v => [0xED, byteOf (0x5E + 32 * v.val)]
  | .ldVectorA => [0xED, 0x47]
  | .ldRefreshA => [0xED, 0x4F]
  | .ldAVector => [0xED, 0x57]
  | .ldARefresh => [0xED, 0x5F]
  | .rrd => [0xED, 0x67]
  | .rld => [0xED, 0x6F]
  | .ldi => [0xED, 0xA0]
  | .cpi => [0xED, 0xA1]
  | .ini => [0xED, 0xA2]
  | .outi => [0xED, 0xA3]
  | .ldd => [0xED, 0xA8]
  | .cpd => [0xED, 0xA9]
  | .ind => [0xED, 0xAA]
  | .outd => [0xED, 0xAB]
  | .ldir => [0xED, 0xB0]
  | .cpir => [0xED, 0xB1]
  | .inir => [0xED, 0xB2]
  | .otir => [0xED, 0xB3]
  | .lddr => [0xED, 0xB8]
  | .cpdr => [0xED, 0xB9]
  | .indr => [0xED, 0xBA]
  | .otdr => [0xED, 0xBB]
  | .nopEd v => [0xED, v]
  | .addIdxPp x pp => [x.prefixByte, byteOf (0x09 + 16 * pp.code)]
  | .ldIdxNn x nn => [x.prefixByte, 0x21, loByte nn, hiByte nn]
  | .ldIndNnIdx x nn => [x.prefixByte, 0x22, loByte nn, hiByte nn]
  | .ldIdxIndNn x nn => [x.prefixByte, 0x2A, loByte nn, hiByte nn]
  | .incIdx x => [x.prefixByte, 0x23]
  | .decIdx x => [x.prefixByte, 0x2B]
  | .incIdxHalf x h => [x.prefixByte, byteOf (0x24 + 8 * h.code)]
  | .decIdxHalf x h => [x.prefixByte, byteOf (0x25 + 8 * h.code)]
  | .ldIdxHalfN x h n => [x.prefixByte, byteOf (0x26 + 8 * h.code), n]
  | .incIndIdx x d => [x.prefixByte, 0x34, d]
  | .decIndIdx x d => [x.prefixByte, 0x35, d]
  | .ldIndIdxN x d n => [x.prefixByte, 0x36, d, n]
  | .ldRIndIdx x r d => [x.prefixByte, byteOf (0x46 + 8 * r.code), d]
  | .ldIndIdxR x d r => [x.prefixByte, byteOf (0x70 + r.code), d]
  | .ldRIdxHalf x r h => [x.prefixByte, byteOf (0x44 + 8 * r.code + h.code)]
  | .ldIdxHalfR x h r => [x.prefixByte, byteOf (0x60 + 8 * h.code + r.code)]
  | .ldIdxHalfIdxHalf x h h' => [x.prefixByte, byteOf (0x64 + 8 * h.code + h'.code)]
  | .addAIdxHalf x h => [x.prefixByte, byteOf (0x84 + h.code)]
  | .addAIndIdx x d => [x.prefixByte, 0x86, d]
  | .adcAIdxHalf x h => [x.prefixByte, byteOf (0x8C + h.code)]
  | .adcAIndIdx x d => [x.prefixByte, 0x8E, d]
  | .subIdxHalf x h => [x.prefixByte, byteOf (0x94 + h.code)]
  | .subIndIdx x d => [x.prefixByte, 0x96, d]
  | .sbcAIdxHalf x h => [x.prefixByte, byteOf (0x9C + h.code)]
  | .sbcAIndIdx x d => [x.prefixByte, 0x9E, d]
  | .andIdxHalf x h => [x.prefixByte, byteOf (0xA4 + h.code)]
  | .andIndIdx x d => [x.prefixByte, 0xA6, d]
  | .xorIdxHalf x h => [x.prefixByte, byteOf (0xAC + h.code)]
  | .xorIndIdx x d => [x.prefixByte, 0xAE, d]
  | .orIdxHalf x h => [x.prefixByte, byteOf (0xB4 + h.code)]
  | .orIndIdx x d => [x.prefixByte, 0xB6, d]
  | .cpIdxHalf x h => [x.prefixByte, byteOf (0xBC + h.code)]
  | .cpIndIdx x d => [x.prefixByte, 0xBE, d]
  | .popIdx x => [x.prefixByte, 0xE1]
  | .exIndSpIdx x => [x.prefixByte, 0xE3]
  | .pushIdx x => [x.prefixByte, 0xE5]
  | .jpIndIdx x => [x.prefixByte, 0xE9]
  | .ldSpIdx x => [x.prefixByte, 0xF9]
  | .ignoredIndexPrefix x op => [x.prefixByte, op]
  | .rlcIndIdx x d => [x.prefixByte, 0xCB, d, 0x06]
  | .rlcIndIdxR x d r => [x.prefixByte, 0xCB, d, byteOf (0x00 + r.code)]
  | .rrcIndIdx x d => [x.prefixByte, 0xCB, d, 0x0E]
  | .rrcIndIdxR x d r => [x.prefixByte, 0xCB, d, byteOf (0x08 + r.code)]
  | .rlIndIdx x d => [x.prefixByte, 0xCB, d, 0x16]
  | .rlIndIdxR x d r => [x.prefixByte, 0xCB, d, byteOf (0x10 + r.code)]
  | .rrIndIdx x d => [x.prefixByte, 0xCB, d, 0x1E]
  | .rrIndIdxR x d r => [x.prefixByte, 0xCB, d, byteOf (0x18 + r.code)]
  | .slaIndIdx x d => [x.prefixByte, 0xCB, d, 0x26]
  | .slaIndIdxR x d r => [x.prefixByte, 0xCB, d, byteOf (0x20 + r.code)]
  | .sraIndIdx x d => [x.prefixByte, 0xCB, d, 0x2E]
  | .sraIndIdxR x d r => [x.prefixByte, 0xCB, d, byteOf (0x28 + r.code)]
  | .sllIndIdx x d => [x.prefixByte, 0xCB, d, 0x36]
  | .sllIndIdxR x d r => [x.prefixByte, 0xCB, d, byteOf (0x30 + r.code)]
  | .srlIndIdx x d => [x.prefixByte, 0xCB, d, 0x3E]
  | .srlIndIdxR x d r => [x.prefixByte, 0xCB, d, byteOf (0x38 + r.code)]
  | .bitBIndIdx x d b z => [x.prefixByte, 0xCB, d, byteOf (0x40 + 8 * b.val + z.val)]
  | .resBIndIdx x d b => [x.prefixByte, 0xCB, d, byteOf (0x86 + 8 * b.val)]
  | .resBIndIdxR x d b r => [x.prefixByte, 0xCB, d, byteOf (0x80 + 8 * b.val + r.code)]
  | .setBIndIdx x d b => [x.prefixByte, 0xCB, d, byteOf (0xC6 + 8 * b.val)]
  | .setBIndIdxR x d b r => [x.prefixByte, 0xCB, d, byteOf (0xC0 + 8 * b.val + r.code)]

/-- How many bytes of the stream the instruction takes (30_encoding.md R126): all of its encoding,
but only the prefix byte itself for an ignored index prefix (44_arith8_control.md R358). -/
def Instr.length (i : Instr) : Nat :=
  match i with
  | .ignoredIndexPrefix _ _ => 1
  | i => (encode i).length

/-- Why a list of bytes begins with no instruction: it ends too early. No byte sequence is illegal
(30_encoding.md R132), so this is the only reason. -/
inductive DecodeError where
  | truncated
  deriving DecidableEq, Repr

/-- The decoder on any list of bytes: the instruction and the bytes after it, or a rejection by
name. -/
def decode (bs : List Byte) : Except DecodeError (Instr × List Byte) :=
  let i := decodeBytes (bs.getD 0 0) (bs.getD 1 0) (bs.getD 2 0) (bs.getD 3 0)
  if bs.length < (encode i).length then .error .truncated else .ok (i, bs.drop i.length)

/-- The bytes of a word as spec/opcode_table.json numbers its bits: `match` and `mask` read the whole
instruction as one number whose most significant byte is the first byte in fetch order, and the
row's `fixed` fields number the bits of that number (log 9, DEDUCED, safe). Zero bytes follow, up
to the longest instruction. -/
def tableWordBytes (nbits w : Nat) : List Byte :=
  let n := (nbits + 7) / 8
  (List.range n).map (fun k => byteOf (w / 256 ^ (n - 1 - k))) ++ List.replicate (4 - n) 0

/-- The instruction the decoder reads from a word of the opcode table. -/
def decodeTableWord (nbits w : Nat) : Option Instr :=
  match decode (tableWordBytes nbits w) with
  | .ok p => some p.1
  | .error _ => none

end Sys2Proof
end

