-- ==== Sys2Proof/Machine/Control.lean ====
section
/-! DEFINITION. CPU control (44_arith8_control.md R350 to R358). -/

namespace Sys2Proof.Machine

open Sys2Proof

/-- `NOP` (R350). -/
def execNop (s : State) : Host.Outcome State Fault Refusal :=
  .next s

/-- `HALT` (R351): PC is held at the HALT byte. -/
def execHalt (s : State) : Host.Outcome State Fault Refusal :=
  .next { s with halted := true, pc := s.pc - 1 }

/-- `DI` (R352). -/
def execDi (s : State) : Host.Outcome State Fault Refusal :=
  .next { s with iff1 := false, iff2 := false }

/-- `EI` (R353). -/
def execEi (s : State) : Host.Outcome State Fault Refusal :=
  .next { s with iff1 := true, iff2 := true, intBlocked := true }

/-- `IM 0` and its aliases (R354). -/
def execImZero (_v : Fin 4) (s : State) : Host.Outcome State Fault Refusal :=
  .next { s with im := .im0 }

/-- `IM 1` and its alias (R355). -/
def execImOne (_v : Fin 2) (s : State) : Host.Outcome State Fault Refusal :=
  .next { s with im := .im1 }

/-- `IM 2` and its alias (R356). -/
def execImTwo (_v : Fin 2) (s : State) : Host.Outcome State Fault Refusal :=
  .next { s with im := .im2 }

/-- The unofficial ED slots (R357): a two-byte no-op. -/
def execNopEd (_v : Byte) (s : State) : Host.Outcome State Fault Refusal :=
  .next s

/-- The end of a step on a redundant index prefix (30_encoding.md R121): the second prefix is fetched,
PENDING_INDEX takes its register and INT_BLOCKED is set. -/
def State.redundantPrefix (s : State) (op : Byte) : State :=
  { s.fetchM1 with pendingIndex := some (prefixIdx op), intBlocked := true }

/-- An index prefix that changes nothing of what follows it (R358): no effect beyond its own fetch. Before
another index prefix it is redundant (R121) and the step ends there; before any other byte the step
goes on with that byte. -/
def execIgnoredIndexPrefix (_x : IdxReg) (op : Byte) (s : State) : Host.Outcome State Fault Refusal :=
  .next (if isIndexPrefix op then s.redundantPrefix op else s)

end Sys2Proof.Machine
end

