-- ==== Sys2Proof/Machine/Exchange.lean ====
section
/-! DEFINITION. The exchanges, block transfers and block searches (43_exchange_block.md R300 to R313). -/

namespace Sys2Proof.Machine

open Sys2Proof

/-- `EX DE,HL` (R300). -/
def execExDeHl (s : State) : Host.Outcome State Fault Refusal :=
  .next { s with de := s.hl, hl := s.de }

/-- `EX AF,AF'` (R301). -/
def execExAfAf (s : State) : Host.Outcome State Fault Refusal :=
  .next { s with af := s.afAlt, afAlt := s.af }

/-- `EXX` (R302). -/
def execExx (s : State) : Host.Outcome State Fault Refusal :=
  .next { s with
    bc := s.bcAlt, de := s.deAlt, hl := s.hlAlt
    bcAlt := s.bc, deAlt := s.de, hlAlt := s.hl }

/-- The exchange of a word with the top of the stack (R303): both bytes read, then both written, the
high one first; the answer is the old top of the stack, which MEMPTR takes. -/
def State.exchangeTop (s : State) (v : Word) : Word × State :=
  let m := s.memRead16 s.sp
  let s1 := m.2.idle (s.sp + 1) 1
  let s2 := (s1.memWrite (s.sp + 1) (hiByte v)).memWrite s.sp (loByte v)
  (m.1, { s2.idle s.sp 2 with memptr := m.1 })

/-- `EX (SP),HL` (R303). -/
def execExIndSpHl (s : State) : Host.Outcome State Fault Refusal :=
  let p := s.exchangeTop s.hl
  .next { p.2 with hl := p.1 }

/-- `EX (SP),IDX` (R304). -/
def execExIndSpIdx (x : IdxReg) (s : State) : Host.Outcome State Fault Refusal :=
  let p := s.exchangeTop (s.idx x)
  .next (p.2.setIdx x p.1)

/-! ## Block transfer

`delta` is 1 for the incrementing instructions and -1 for the decrementing ones. -/

/-- One iteration of a block transfer (R306, R307). -/
def State.ldStep (s : State) (delta : Word) : State :=
  let m := s.memRead s.hl
  let s1 := (m.2.memWrite s.de m.1).idle s.de 2
  { s1.setF (ldBlockF s.a m.1 s.f (decide (s.bc - 1 ≠ 0))) with
    hl := s.hl + delta, de := s.de + delta, bc := s.bc - 1 }

/-- The repeat of R305: five idle T-states and PC back to the ED byte. -/
def State.repeatBlock (s : State) (a : Word) : State :=
  let s1 := s.idle a 5
  { s1 with pc := s1.pc - 2 }

/-- A repeating block transfer (R308, R309): again while BC ≠ 0, with MEMPTR = PC + 1. -/
def State.ldRepeat (s : State) (delta : Word) : State :=
  let s1 := s.ldStep delta
  if s1.bc ≠ 0 then
    let s2 := s1.repeatBlock s.de
    { s2 with memptr := s2.pc + 1 }
  else s1

/-- `LDI` (R306). -/
def execLdi (s : State) : Host.Outcome State Fault Refusal :=
  .next (s.ldStep 1)

/-- `LDD` (R307). -/
def execLdd (s : State) : Host.Outcome State Fault Refusal :=
  .next (s.ldStep (-1))

/-- `LDIR` (R308). -/
def execLdir (s : State) : Host.Outcome State Fault Refusal :=
  .next (s.ldRepeat 1)

/-- `LDDR` (R309). -/
def execLddr (s : State) : Host.Outcome State Fault Refusal :=
  .next (s.ldRepeat (-1))

/-! ## Block search -/

/-- One iteration of a block search but its MEMPTR line (R310, R311). -/
def State.cpStep (s : State) (delta : Word) : State :=
  let m := s.memRead s.hl
  let s1 := m.2.idle s.hl 5
  { s1.setF (cpBlockF s.a m.1 s.f (decide (s.bc - 1 ≠ 0))) with
    hl := s.hl + delta, bc := s.bc - 1 }

/-- A single block search: MEMPTR steps with HL (R310, R311). -/
def State.cpSingle (s : State) (delta : Word) : State :=
  let s1 := s.cpStep delta
  { s1 with memptr := s1.memptr + delta }

/-- A repeating block search (R312, R313): again while BC ≠ 0 and Z = 0, with MEMPTR = PC + 1; else
MEMPTR steps. -/
def State.cpRepeat (s : State) (delta : Word) : State :=
  let s1 := s.cpStep delta
  if s1.bc ≠ 0 ∧ flagZ s1.f = false then
    let s2 := s1.repeatBlock s.hl
    { s2 with memptr := s2.pc + 1 }
  else { s1 with memptr := s1.memptr + delta }

/-- `CPI` (R310). -/
def execCpi (s : State) : Host.Outcome State Fault Refusal :=
  .next (s.cpSingle 1)

/-- `CPD` (R311). -/
def execCpd (s : State) : Host.Outcome State Fault Refusal :=
  .next (s.cpSingle (-1))

/-- `CPIR` (R312). -/
def execCpir (s : State) : Host.Outcome State Fault Refusal :=
  .next (s.cpRepeat 1)

/-- `CPDR` (R313). -/
def execCpdr (s : State) : Host.Outcome State Fault Refusal :=
  .next (s.cpRepeat (-1))

end Sys2Proof.Machine
end

