-- ==== Sys2Proof/Machine/InOut.lean ====
section
/-! DEFINITION. Input and output (49_io.md R500 to R514). -/

namespace Sys2Proof.Machine

open Sys2Proof

/-- `IN A,(n)` (R500): the port is A : n with the old A. -/
def execInAIndN (n : Byte) (s : State) : Host.Outcome State Fault Refusal :=
  let port := join s.a n
  let m := s.imm8.portRead port
  .next { m.2.setA m.1 with memptr := port + 1 }

/-- The port read of `IN r,(C)` and `IN (C)` with its flags (R501, R502). -/
def State.inC (s : State) : Byte × State :=
  let m := s.portRead s.bc
  (m.1, { m.2.setF (logicKeepC m.1 s.f) with memptr := s.bc + 1 })

/-- The port write of `OUT (C),r` and `OUT (C),0` (R504, R505). -/
def State.outC (s : State) (v : Byte) : State := { s.portWrite s.bc v with memptr := s.bc + 1 }

/-- `IN r,(C)` (R501). -/
def execInRIndC (r : Reg8) (s : State) : Host.Outcome State Fault Refusal :=
  let m := s.inC
  .next (m.2.setReg r m.1)

/-- `IN (C)` (R502): flags only. -/
def execInIndC (s : State) : Host.Outcome State Fault Refusal :=
  .next s.inC.2

/-- `OUT (n),A` (R503). -/
def execOutIndNA (n : Byte) (s : State) : Host.Outcome State Fault Refusal :=
  .next { s.imm8.portWrite (join s.a n) s.a with memptr := join s.a (n + 1) }

/-- `OUT (C),r` (R504). -/
def execOutIndCR (r : Reg8) (s : State) : Host.Outcome State Fault Refusal :=
  .next (s.outC (s.reg r))

/-- `OUT (C),0` (R505): the byte `OUT_C_ZERO`. -/
def execOutIndCZero (s : State) : Host.Outcome State Fault Refusal :=
  .next (s.outC Config.outCZero)

/-! ## Block I/O

`delta` is 1 for the incrementing instructions and -1 for the decrementing ones. -/

/-- One iteration of a block input (R507, R508): the port carries the old B, MEMPTR the old BC plus
delta, and k is v plus the low byte of C + delta. -/
def State.inStep (s : State) (delta : Word) : State :=
  let m := (s.idle s.irAddr 1).portRead s.bc
  let b := hiByte s.bc - 1
  let s1 := m.2.memWrite s.hl m.1
  { s1.setF (ioBlockF m.1 b (m.1.toNat + (loByte s.bc + loByte delta).toNat)) with
    bc := join b (loByte s.bc), hl := s.hl + delta, memptr := s.bc + delta }

/-- One iteration of a block output (R511, R512): the port carries the decremented B, MEMPTR the new
BC plus delta, and k is v plus the new L. -/
def State.outStep (s : State) (delta : Word) : State :=
  let m := (s.idle s.irAddr 1).memRead s.hl
  let b := hiByte s.bc - 1
  let bc' := join b (loByte s.bc)
  let s1 := { m.2 with bc := bc' }.portWrite bc' m.1
  { s1.setF (ioBlockF m.1 b (m.1.toNat + (loByte (s.hl + delta)).toNat)) with
    hl := s.hl + delta, memptr := bc' + delta }

/-- The repeat of R509 and R513: again while B ≠ 0; MEMPTR stays. -/
def State.ioRepeat (s : State) (a : Word) : State := if s.reg .b ≠ 0 then s.repeatBlock a else s

/-- `INI` (R507). -/
def execIni (s : State) : Host.Outcome State Fault Refusal :=
  .next (s.inStep 1)

/-- `IND` (R508). -/
def execInd (s : State) : Host.Outcome State Fault Refusal :=
  .next (s.inStep (-1))

/-- `INIR` (R509): the idle address is the HL written. -/
def execInir (s : State) : Host.Outcome State Fault Refusal :=
  .next ((s.inStep 1).ioRepeat s.hl)

/-- `INDR` (R510). -/
def execIndr (s : State) : Host.Outcome State Fault Refusal :=
  .next ((s.inStep (-1)).ioRepeat s.hl)

/-- `OUTI` (R511). -/
def execOuti (s : State) : Host.Outcome State Fault Refusal :=
  .next (s.outStep 1)

/-- `OUTD` (R512). -/
def execOutd (s : State) : Host.Outcome State Fault Refusal :=
  .next (s.outStep (-1))

/-- `OTIR` (R513): the idle address is BC after the decrement. -/
def execOtir (s : State) : Host.Outcome State Fault Refusal :=
  let s1 := s.outStep 1
  .next (s1.ioRepeat s1.bc)

/-- `OTDR` (R514). -/
def execOtdr (s : State) : Host.Outcome State Fault Refusal :=
  let s1 := s.outStep (-1)
  .next (s1.ioRepeat s1.bc)

end Sys2Proof.Machine
end

