-- ==== Sys2Proof/Machine/Jump.lean ====
section
/-! DEFINITION. Jumps, calls, returns and restarts (48_jump_call_return.md R460 to R473). -/

namespace Sys2Proof.Machine

open Sys2Proof

/-- A taken relative jump (R462): five idle T-states at the address of the displacement, then PC plus
the signed displacement, which MEMPTR takes. -/
def State.relativeJump (s : State) (e : Byte) : State :=
  (s.idle (s.pc - 1) 5).goTo (s.pc + sext16 e)

/-- A taken call, its operand already read (R466): one idle T-state, PC pushed, PC := nn. -/
def State.call (s : State) (nn : Word) : State :=
  { (s.idle (s.pc - 1) 1).push16 s.pc with pc := nn }

/-- `JP nn` (R460). -/
def execJpNn (nn : Word) (s : State) : Host.Outcome State Fault Refusal :=
  .next (s.imm16.goTo nn)

/-- `JP cc,nn` (R461): MEMPTR takes nn, taken or not. -/
def execJpCcNn (cc : Cond) (nn : Word) (s : State) : Host.Outcome State Fault Refusal :=
  let s1 := { s.imm16 with memptr := nn }
  .next (if condHolds cc s.f then { s1 with pc := nn } else s1)

/-- `JR e` (R462). -/
def execJr (e : Byte) (s : State) : Host.Outcome State Fault Refusal :=
  .next (s.imm8.relativeJump e)

/-- `JR cc,e` (R463). -/
def execJrCc (cc : JrCond) (e : Byte) (s : State) : Host.Outcome State Fault Refusal :=
  .next (if jrCondHolds cc s.f then s.imm8.relativeJump e else s.imm8)

/-- `JP (HL)` (R464). -/
def execJpIndHl (s : State) : Host.Outcome State Fault Refusal :=
  .next { s with pc := s.hl }

/-- `JP (IDX)` (R464). -/
def execJpIndIdx (x : IdxReg) (s : State) : Host.Outcome State Fault Refusal :=
  .next { s with pc := s.idx x }

/-- `DJNZ e` (R465): tests the decremented B, no flag. -/
def execDjnz (e : Byte) (s : State) : Host.Outcome State Fault Refusal :=
  let s1 := (s.idle s.irAddr 1).imm8
  let s2 := s1.setReg .b (s1.reg .b - 1)
  .next (if s2.reg .b ≠ 0 then s2.relativeJump e else s2)

/-- `CALL nn` (R466). -/
def execCallNn (nn : Word) (s : State) : Host.Outcome State Fault Refusal :=
  .next ({ s.imm16 with memptr := nn }.call nn)

/-- `CALL cc,nn` (R467): MEMPTR takes nn, taken or not. -/
def execCallCcNn (cc : Cond) (nn : Word) (s : State) : Host.Outcome State Fault Refusal :=
  let s1 := { s.imm16 with memptr := nn }
  .next (if condHolds cc s.f then s1.call nn else s1)

/-- `RET` (R468). -/
def execRet (s : State) : Host.Outcome State Fault Refusal :=
  .next s.return

/-- `RET cc` (R469): no memory is read when not taken. -/
def execRetCc (cc : Cond) (s : State) : Host.Outcome State Fault Refusal :=
  let s1 := s.idle s.irAddr 1
  .next (if condHolds cc s.f then s1.return else s1)

/-- `RETI` (R470). -/
def execReti (s : State) : Host.Outcome State Fault Refusal :=
  .next s.returnFromInterrupt

/-- `RETN` and its aliases (R471). -/
def execRetn (_v : Fin 8) (s : State) : Host.Outcome State Fault Refusal :=
  .next s.returnFromInterrupt

/-- `RST t` (R472): the target is 8 · t. -/
def execRst (t : Fin 8) (s : State) : Host.Outcome State Fault Refusal :=
  .next (((s.idle s.irAddr 1).push16 s.pc).goTo (BitVec.ofNat 16 (8 * t.val)))

end Sys2Proof.Machine
end

