-- ==== Sys2Proof/Machine/Load16.lean ====
section
/-! DEFINITION. The 16-bit loads, PUSH and POP (42_load16.md R260 to R273). -/

namespace Sys2Proof.Machine

open Sys2Proof

/-- `LD dd,nn` (R260). -/
def execLdDdNn (dd : PairSp) (nn : Word) (s : State) : Host.Outcome State Fault Refusal :=
  .next (s.imm16.setPairSp dd nn)

/-- `LD IDX,nn` (R261). -/
def execLdIdxNn (x : IdxReg) (nn : Word) (s : State) : Host.Outcome State Fault Refusal :=
  .next (s.imm16.setIdx x nn)

/-- The two operand bytes, the word at nn low byte first, and MEMPTR = nn + 1 (R262 to R264). -/
def State.loadWord (s : State) (nn : Word) : Word × State :=
  let m := s.imm16.memRead16 nn
  (m.1, { m.2 with memptr := nn + 1 })

/-- The two operand bytes, the word stored at nn low byte first, and MEMPTR = nn + 1 (R265 to
R267). -/
def State.storeWord (s : State) (nn v : Word) : State :=
  { s.imm16.memWrite16 nn v with memptr := nn + 1 }

/-- `LD HL,(nn)` (R262). -/
def execLdHlIndNn (nn : Word) (s : State) : Host.Outcome State Fault Refusal :=
  let m := s.loadWord nn
  .next { m.2 with hl := m.1 }

/-- `LD dd,(nn)` (R263). -/
def execLdDdIndNn (dd : PairSp) (nn : Word) (s : State) : Host.Outcome State Fault Refusal :=
  let m := s.loadWord nn
  .next (m.2.setPairSp dd m.1)

/-- `LD IDX,(nn)` (R264). -/
def execLdIdxIndNn (x : IdxReg) (nn : Word) (s : State) : Host.Outcome State Fault Refusal :=
  let m := s.loadWord nn
  .next (m.2.setIdx x m.1)

/-- `LD (nn),HL` (R265). -/
def execLdIndNnHl (nn : Word) (s : State) : Host.Outcome State Fault Refusal :=
  .next (s.storeWord nn s.hl)

/-- `LD (nn),dd` (R266). -/
def execLdIndNnDd (dd : PairSp) (nn : Word) (s : State) : Host.Outcome State Fault Refusal :=
  .next (s.storeWord nn (s.pairSp dd))

/-- `LD (nn),IDX` (R267). -/
def execLdIndNnIdx (x : IdxReg) (nn : Word) (s : State) : Host.Outcome State Fault Refusal :=
  .next (s.storeWord nn (s.idx x))

/-- `LD SP,HL` (R268). -/
def execLdSpHl (s : State) : Host.Outcome State Fault Refusal :=
  .next { s.idle s.irAddr 2 with sp := s.hl }

/-- `LD SP,IDX` (R269). -/
def execLdSpIdx (x : IdxReg) (s : State) : Host.Outcome State Fault Refusal :=
  .next { s.idle s.irAddr 2 with sp := s.idx x }

/-- `PUSH qq` (R270). -/
def execPushQq (qq : PairAf) (s : State) : Host.Outcome State Fault Refusal :=
  .next ((s.idle s.irAddr 1).push16 (s.pairAf qq))

/-- `PUSH IDX` (R271). -/
def execPushIdx (x : IdxReg) (s : State) : Host.Outcome State Fault Refusal :=
  .next ((s.idle s.irAddr 1).push16 (s.idx x))

/-- `POP qq` (R272). -/
def execPopQq (qq : PairAf) (s : State) : Host.Outcome State Fault Refusal :=
  let p := s.pop16
  .next (p.2.setPairAf qq p.1)

/-- `POP IDX` (R273). -/
def execPopIdx (x : IdxReg) (s : State) : Host.Outcome State Fault Refusal :=
  let p := s.pop16
  .next (p.2.setIdx x p.1)

end Sys2Proof.Machine
end

