-- ==== Sys2Proof/Machine/Load8.lean ====
section
/-! DEFINITION. The 8-bit loads (41_load8.md R220 to R241). -/

namespace Sys2Proof.Machine

open Sys2Proof

/-- `LD r,r'` (R220). -/
def execLdRR (r r' : Reg8) (s : State) : Host.Outcome State Fault Refusal :=
  .next (s.setReg r (s.reg r'))

/-- `LD r,n` (R221). -/
def execLdRN (r : Reg8) (n : Byte) (s : State) : Host.Outcome State Fault Refusal :=
  .next (s.imm8.setReg r n)

/-- `LD r,(HL)` (R222): the read uses the old HL. -/
def execLdRIndHl (r : Reg8) (s : State) : Host.Outcome State Fault Refusal :=
  let m := s.memRead s.hl
  .next (m.2.setReg r m.1)

/-- `LD (HL),r` (R223). -/
def execLdIndHlR (r : Reg8) (s : State) : Host.Outcome State Fault Refusal :=
  .next (s.memWrite s.hl (s.reg r))

/-- `LD (HL),n` (R224). -/
def execLdIndHlN (n : Byte) (s : State) : Host.Outcome State Fault Refusal :=
  .next (s.imm8.memWrite s.hl n)

/-- A load of A from an address, MEMPTR taking the address plus 1 (R225 to R227). -/
def State.loadA (s : State) (a : Word) : State :=
  let m := s.memRead a
  { m.2.setA m.1 with memptr := a + 1 }

/-- A store of A at an address, MEMPTR taking A : low byte of the address plus 1 (R228 to R230). -/
def State.storeA (s : State) (a : Word) : State :=
  { s.memWrite a s.a with memptr := join s.a (loByte (a + 1)) }

/-- `LD A,(BC)` (R225). -/
def execLdAIndBc (s : State) : Host.Outcome State Fault Refusal :=
  .next (s.loadA s.bc)

/-- `LD A,(DE)` (R226). -/
def execLdAIndDe (s : State) : Host.Outcome State Fault Refusal :=
  .next (s.loadA s.de)

/-- `LD A,(nn)` (R227). -/
def execLdAIndNn (nn : Word) (s : State) : Host.Outcome State Fault Refusal :=
  .next (s.imm16.loadA nn)

/-- `LD (BC),A` (R228). -/
def execLdIndBcA (s : State) : Host.Outcome State Fault Refusal :=
  .next (s.storeA s.bc)

/-- `LD (DE),A` (R229). -/
def execLdIndDeA (s : State) : Host.Outcome State Fault Refusal :=
  .next (s.storeA s.de)

/-- `LD (nn),A` (R230). -/
def execLdIndNnA (nn : Word) (s : State) : Host.Outcome State Fault Refusal :=
  .next (s.imm16.storeA nn)

/-- A takes I or R, and F its S, Z, F5, F3 with P/V = IFF2 (R231, R234). -/
def State.loadAInternal (s : State) (v : Byte) : State :=
  (s.setF (ldAIRF v s.f s.iff2)).setA v

/-- `LD A,I` (R231). -/
def execLdAVector (s : State) : Host.Outcome State Fault Refusal :=
  .next ((s.idle s.irAddr 1).loadAInternal s.i)

/-- `LD I,A` (R232): the idle address uses the old I. -/
def execLdVectorA (s : State) : Host.Outcome State Fault Refusal :=
  .next { s.idle s.irAddr 1 with i := s.a }

/-- `LD R,A` (R233): all eight bits. -/
def execLdRefreshA (s : State) : Host.Outcome State Fault Refusal :=
  .next { s.idle s.irAddr 1 with r := s.a }

/-- `LD A,R` (R234): R after this instruction's own two increments. -/
def execLdARefresh (s : State) : Host.Outcome State Fault Refusal :=
  .next ((s.idle s.irAddr 1).loadAInternal s.r)

/-- `LD r,(IDX+d)` (R235). -/
def execLdRIndIdx (x : IdxReg) (r : Reg8) (d : Byte) (s : State) : Host.Outcome State Fault Refusal :=
  let m := s.readIdx x d
  .next (m.2.setReg r m.1)

/-- `LD (IDX+d),r` (R236). -/
def execLdIndIdxR (x : IdxReg) (d : Byte) (r : Reg8) (s : State) : Host.Outcome State Fault Refusal :=
  let o := s.idxOperand x d
  .next (o.2.memWrite o.1 (s.reg r))

/-- `LD (IDX+d),n` (R237): d and n are read, then two idle T-states at the address of n. -/
def execLdIndIdxN (x : IdxReg) (d n : Byte) (s : State) : Host.Outcome State Fault Refusal :=
  let s1 := s.imm8.imm8
  let s2 := s1.idle (s1.pc - 1) 2
  .next ({ s2 with memptr := s2.idxAddr x d }.memWrite (s2.idxAddr x d) n)

/-- `LD r,IDXh` and `LD r,IDXl` (R238). -/
def execLdRIdxHalf (x : IdxReg) (r : Reg8) (h : Half) (s : State) : Host.Outcome State Fault Refusal :=
  .next (s.setReg r (s.half x h))

/-- `LD IDXh,r` and `LD IDXl,r` (R239). -/
def execLdIdxHalfR (x : IdxReg) (h : Half) (r : Reg8) (s : State) : Host.Outcome State Fault Refusal :=
  .next (s.setHalf x h (s.reg r))

/-- `LD IDXh/IDXl,IDXh/IDXl` (R240). -/
def execLdIdxHalfIdxHalf (x : IdxReg) (h h' : Half) (s : State) : Host.Outcome State Fault Refusal :=
  .next (s.setHalf x h (s.half x h'))

/-- `LD IDXh,n` and `LD IDXl,n` (R241). -/
def execLdIdxHalfN (x : IdxReg) (h : Half) (n : Byte) (s : State) : Host.Outcome State Fault Refusal :=
  .next (s.imm8.setHalf x h n)

end Sys2Proof.Machine
end

