-- ==== Sys2Proof/Machine/Rotate.lean ====
section
/-! DEFINITION. The rotates and shifts (46_rotate_shift.md R400 to R415). -/

namespace Sys2Proof.Machine

open Sys2Proof

/-- An accumulator rotate (R400 to R403). -/
def State.rotateA (s : State) (k : RotOp) : State :=
  let p := rotAF k s.a s.f
  (s.setF p.2).setA p.1

/-- `RLCA` (R400). -/
def execRlca (s : State) : Host.Outcome State Fault Refusal :=
  .next (s.rotateA .rlc)

/-- `RLA` (R401). -/
def execRla (s : State) : Host.Outcome State Fault Refusal :=
  .next (s.rotateA .rl)

/-- `RRCA` (R402). -/
def execRrca (s : State) : Host.Outcome State Fault Refusal :=
  .next (s.rotateA .rrc)

/-- `RRA` (R403). -/
def execRra (s : State) : Host.Outcome State Fault Refusal :=
  .next (s.rotateA .rr)

/-! ## The CB group: register, (HL), (IDX+d) and (IDX+d) with a register copy -/

/-- `RLC r` (R406). -/
def execRlcR (r : Reg8) (s : State) : Host.Outcome State Fault Refusal :=
  .next (s.modifyReg r (rotF .rlc))

/-- `RLC (HL)` (R406). -/
def execRlcIndHl (s : State) : Host.Outcome State Fault Refusal :=
  .next (s.modify s.hl (rotF .rlc)).2

/-- `RLC (IDX+d)` (R406). -/
def execRlcIndIdx (x : IdxReg) (d : Byte) (s : State) : Host.Outcome State Fault Refusal :=
  .next (s.modifyIdxCb x d none (rotF .rlc))

/-- `RLC (IDX+d),r` (R406). -/
def execRlcIndIdxR (x : IdxReg) (d : Byte) (r : Reg8) (s : State) : Host.Outcome State Fault Refusal :=
  .next (s.modifyIdxCb x d (some r) (rotF .rlc))

/-- `RRC r` (R407). -/
def execRrcR (r : Reg8) (s : State) : Host.Outcome State Fault Refusal :=
  .next (s.modifyReg r (rotF .rrc))

/-- `RRC (HL)` (R407). -/
def execRrcIndHl (s : State) : Host.Outcome State Fault Refusal :=
  .next (s.modify s.hl (rotF .rrc)).2

/-- `RRC (IDX+d)` (R407). -/
def execRrcIndIdx (x : IdxReg) (d : Byte) (s : State) : Host.Outcome State Fault Refusal :=
  .next (s.modifyIdxCb x d none (rotF .rrc))

/-- `RRC (IDX+d),r` (R407). -/
def execRrcIndIdxR (x : IdxReg) (d : Byte) (r : Reg8) (s : State) : Host.Outcome State Fault Refusal :=
  .next (s.modifyIdxCb x d (some r) (rotF .rrc))

/-- `RL r` (R408). -/
def execRlR (r : Reg8) (s : State) : Host.Outcome State Fault Refusal :=
  .next (s.modifyReg r (rotF .rl))

/-- `RL (HL)` (R408). -/
def execRlIndHl (s : State) : Host.Outcome State Fault Refusal :=
  .next (s.modify s.hl (rotF .rl)).2

/-- `RL (IDX+d)` (R408). -/
def execRlIndIdx (x : IdxReg) (d : Byte) (s : State) : Host.Outcome State Fault Refusal :=
  .next (s.modifyIdxCb x d none (rotF .rl))

/-- `RL (IDX+d),r` (R408). -/
def execRlIndIdxR (x : IdxReg) (d : Byte) (r : Reg8) (s : State) : Host.Outcome State Fault Refusal :=
  .next (s.modifyIdxCb x d (some r) (rotF .rl))

/-- `RR r` (R409). -/
def execRrR (r : Reg8) (s : State) : Host.Outcome State Fault Refusal :=
  .next (s.modifyReg r (rotF .rr))

/-- `RR (HL)` (R409). -/
def execRrIndHl (s : State) : Host.Outcome State Fault Refusal :=
  .next (s.modify s.hl (rotF .rr)).2

/-- `RR (IDX+d)` (R409). -/
def execRrIndIdx (x : IdxReg) (d : Byte) (s : State) : Host.Outcome State Fault Refusal :=
  .next (s.modifyIdxCb x d none (rotF .rr))

/-- `RR (IDX+d),r` (R409). -/
def execRrIndIdxR (x : IdxReg) (d : Byte) (r : Reg8) (s : State) : Host.Outcome State Fault Refusal :=
  .next (s.modifyIdxCb x d (some r) (rotF .rr))

/-- `SLA r` (R410). -/
def execSlaR (r : Reg8) (s : State) : Host.Outcome State Fault Refusal :=
  .next (s.modifyReg r (rotF .sla))

/-- `SLA (HL)` (R410). -/
def execSlaIndHl (s : State) : Host.Outcome State Fault Refusal :=
  .next (s.modify s.hl (rotF .sla)).2

/-- `SLA (IDX+d)` (R410). -/
def execSlaIndIdx (x : IdxReg) (d : Byte) (s : State) : Host.Outcome State Fault Refusal :=
  .next (s.modifyIdxCb x d none (rotF .sla))

/-- `SLA (IDX+d),r` (R410). -/
def execSlaIndIdxR (x : IdxReg) (d : Byte) (r : Reg8) (s : State) : Host.Outcome State Fault Refusal :=
  .next (s.modifyIdxCb x d (some r) (rotF .sla))

/-- `SRA r` (R411). -/
def execSraR (r : Reg8) (s : State) : Host.Outcome State Fault Refusal :=
  .next (s.modifyReg r (rotF .sra))

/-- `SRA (HL)` (R411). -/
def execSraIndHl (s : State) : Host.Outcome State Fault Refusal :=
  .next (s.modify s.hl (rotF .sra)).2

/-- `SRA (IDX+d)` (R411). -/
def execSraIndIdx (x : IdxReg) (d : Byte) (s : State) : Host.Outcome State Fault Refusal :=
  .next (s.modifyIdxCb x d none (rotF .sra))

/-- `SRA (IDX+d),r` (R411). -/
def execSraIndIdxR (x : IdxReg) (d : Byte) (r : Reg8) (s : State) : Host.Outcome State Fault Refusal :=
  .next (s.modifyIdxCb x d (some r) (rotF .sra))

/-- `SLL r` (R412). -/
def execSllR (r : Reg8) (s : State) : Host.Outcome State Fault Refusal :=
  .next (s.modifyReg r (rotF .sll))

/-- `SLL (HL)` (R412). -/
def execSllIndHl (s : State) : Host.Outcome State Fault Refusal :=
  .next (s.modify s.hl (rotF .sll)).2

/-- `SLL (IDX+d)` (R412). -/
def execSllIndIdx (x : IdxReg) (d : Byte) (s : State) : Host.Outcome State Fault Refusal :=
  .next (s.modifyIdxCb x d none (rotF .sll))

/-- `SLL (IDX+d),r` (R412). -/
def execSllIndIdxR (x : IdxReg) (d : Byte) (r : Reg8) (s : State) : Host.Outcome State Fault Refusal :=
  .next (s.modifyIdxCb x d (some r) (rotF .sll))

/-- `SRL r` (R413). -/
def execSrlR (r : Reg8) (s : State) : Host.Outcome State Fault Refusal :=
  .next (s.modifyReg r (rotF .srl))

/-- `SRL (HL)` (R413). -/
def execSrlIndHl (s : State) : Host.Outcome State Fault Refusal :=
  .next (s.modify s.hl (rotF .srl)).2

/-- `SRL (IDX+d)` (R413). -/
def execSrlIndIdx (x : IdxReg) (d : Byte) (s : State) : Host.Outcome State Fault Refusal :=
  .next (s.modifyIdxCb x d none (rotF .srl))

/-- `SRL (IDX+d),r` (R413). -/
def execSrlIndIdxR (x : IdxReg) (d : Byte) (r : Reg8) (s : State) : Host.Outcome State Fault Refusal :=
  .next (s.modifyIdxCb x d (some r) (rotF .srl))

/-! ## Decimal digit rotates -/

/-- What RLD and RRD share (R414): from the byte at HL and A, the new A and the byte written. -/
def State.rotateDigits (s : State) (digits : Byte → Byte → Byte × Byte) : State :=
  let m := s.memRead s.hl
  let p := digits s.a m.1
  { (((m.2.idle s.hl 4).setF (logicKeepC p.1 s.f)).setA p.1).memWrite s.hl p.2 with memptr := s.hl + 1 }

/-- The digits of RLD (R414): new A, byte written. -/
def rldDigits (a v : Byte) : Byte × Byte := ((a &&& 0xF0) ||| (v >>> 4), (v <<< 4) ||| (a &&& 0x0F))

/-- The digits of RRD (R415): new A, byte written. -/
def rrdDigits (a v : Byte) : Byte × Byte :=
  ((a &&& 0xF0) ||| (v &&& 0x0F), ((a &&& 0x0F) <<< 4) ||| (v >>> 4))

/-- `RLD` (R414). -/
def execRld (s : State) : Host.Outcome State Fault Refusal :=
  .next (s.rotateDigits rldDigits)

/-- `RRD` (R415). -/
def execRrd (s : State) : Host.Outcome State Fault Refusal :=
  .next (s.rotateDigits rrdDigits)

end Sys2Proof.Machine
end

