-- ==== Sys2Proof/Machine/Dispatch.lean ====
section
/-! DEFINITION. The dispatch: one arm per constructor of `Instr`, each one direct call of the
meaning of that instruction. The state given to `exec` is the one after the step has fetched the
prefix and opcode bytes (00_scope.md R14, 30_encoding.md R119). -/

namespace Sys2Proof.Machine

open Sys2Proof

def exec (i : Instr) (s : State) : Host.Outcome State Fault Refusal :=
  match i with
  | .nop => Sys2Proof.Machine.execNop s
  | .ldDdNn dd nn => Sys2Proof.Machine.execLdDdNn dd nn s
  | .addHlSs ss => Sys2Proof.Machine.execAddHlSs ss s
  | .ldIndBcA => Sys2Proof.Machine.execLdIndBcA s
  | .ldAIndBc => Sys2Proof.Machine.execLdAIndBc s
  | .ldIndDeA => Sys2Proof.Machine.execLdIndDeA s
  | .ldAIndDe => Sys2Proof.Machine.execLdAIndDe s
  | .ldIndNnHl nn => Sys2Proof.Machine.execLdIndNnHl nn s
  | .ldHlIndNn nn => Sys2Proof.Machine.execLdHlIndNn nn s
  | .ldIndNnA nn => Sys2Proof.Machine.execLdIndNnA nn s
  | .ldAIndNn nn => Sys2Proof.Machine.execLdAIndNn nn s
  | .incSs ss => Sys2Proof.Machine.execIncSs ss s
  | .decSs ss => Sys2Proof.Machine.execDecSs ss s
  | .incR r => Sys2Proof.Machine.execIncR r s
  | .incIndHl => Sys2Proof.Machine.execIncIndHl s
  | .decR r => Sys2Proof.Machine.execDecR r s
  | .decIndHl => Sys2Proof.Machine.execDecIndHl s
  | .ldRN r n => Sys2Proof.Machine.execLdRN r n s
  | .ldIndHlN n => Sys2Proof.Machine.execLdIndHlN n s
  | .rlca => Sys2Proof.Machine.execRlca s
  | .rrca => Sys2Proof.Machine.execRrca s
  | .rla => Sys2Proof.Machine.execRla s
  | .rra => Sys2Proof.Machine.execRra s
  | .daa => Sys2Proof.Machine.execDaa s
  | .cpl => Sys2Proof.Machine.execCpl s
  | .scf => Sys2Proof.Machine.execScf s
  | .ccf => Sys2Proof.Machine.execCcf s
  | .exAfAf => Sys2Proof.Machine.execExAfAf s
  | .djnz e => Sys2Proof.Machine.execDjnz e s
  | .jr e => Sys2Proof.Machine.execJr e s
  | .jrCc cc e => Sys2Proof.Machine.execJrCc cc e s
  | .halt => Sys2Proof.Machine.execHalt s
  | .ldRR r r' => Sys2Proof.Machine.execLdRR r r' s
  | .ldRIndHl r => Sys2Proof.Machine.execLdRIndHl r s
  | .ldIndHlR r => Sys2Proof.Machine.execLdIndHlR r s
  | .addAR r => Sys2Proof.Machine.execAddAR r s
  | .addAIndHl => Sys2Proof.Machine.execAddAIndHl s
  | .addAN n => Sys2Proof.Machine.execAddAN n s
  | .adcAR r => Sys2Proof.Machine.execAdcAR r s
  | .adcAIndHl => Sys2Proof.Machine.execAdcAIndHl s
  | .adcAN n => Sys2Proof.Machine.execAdcAN n s
  | .subR r => Sys2Proof.Machine.execSubR r s
  | .subIndHl => Sys2Proof.Machine.execSubIndHl s
  | .subN n => Sys2Proof.Machine.execSubN n s
  | .sbcAR r => Sys2Proof.Machine.execSbcAR r s
  | .sbcAIndHl => Sys2Proof.Machine.execSbcAIndHl s
  | .sbcAN n => Sys2Proof.Machine.execSbcAN n s
  | .andR r => Sys2Proof.Machine.execAndR r s
  | .andIndHl => Sys2Proof.Machine.execAndIndHl s
  | .andN n => Sys2Proof.Machine.execAndN n s
  | .xorR r => Sys2Proof.Machine.execXorR r s
  | .xorIndHl => Sys2Proof.Machine.execXorIndHl s
  | .xorN n => Sys2Proof.Machine.execXorN n s
  | .orR r => Sys2Proof.Machine.execOrR r s
  | .orIndHl => Sys2Proof.Machine.execOrIndHl s
  | .orN n => Sys2Proof.Machine.execOrN n s
  | .cpR r => Sys2Proof.Machine.execCpR r s
  | .cpIndHl => Sys2Proof.Machine.execCpIndHl s
  | .cpN n => Sys2Proof.Machine.execCpN n s
  | .retCc cc => Sys2Proof.Machine.execRetCc cc s
  | .popQq qq => Sys2Proof.Machine.execPopQq qq s
  | .ret => Sys2Proof.Machine.execRet s
  | .exx => Sys2Proof.Machine.execExx s
  | .jpIndHl => Sys2Proof.Machine.execJpIndHl s
  | .ldSpHl => Sys2Proof.Machine.execLdSpHl s
  | .jpCcNn cc nn => Sys2Proof.Machine.execJpCcNn cc nn s
  | .jpNn nn => Sys2Proof.Machine.execJpNn nn s
  | .outIndNA n => Sys2Proof.Machine.execOutIndNA n s
  | .inAIndN n => Sys2Proof.Machine.execInAIndN n s
  | .exIndSpHl => Sys2Proof.Machine.execExIndSpHl s
  | .exDeHl => Sys2Proof.Machine.execExDeHl s
  | .di => Sys2Proof.Machine.execDi s
  | .ei => Sys2Proof.Machine.execEi s
  | .callCcNn cc nn => Sys2Proof.Machine.execCallCcNn cc nn s
  | .pushQq qq => Sys2Proof.Machine.execPushQq qq s
  | .callNn nn => Sys2Proof.Machine.execCallNn nn s
  | .rst t => Sys2Proof.Machine.execRst t s
  | .rlcR r => Sys2Proof.Machine.execRlcR r s
  | .rlcIndHl => Sys2Proof.Machine.execRlcIndHl s
  | .rrcR r => Sys2Proof.Machine.execRrcR r s
  | .rrcIndHl => Sys2Proof.Machine.execRrcIndHl s
  | .rlR r => Sys2Proof.Machine.execRlR r s
  | .rlIndHl => Sys2Proof.Machine.execRlIndHl s
  | .rrR r => Sys2Proof.Machine.execRrR r s
  | .rrIndHl => Sys2Proof.Machine.execRrIndHl s
  | .slaR r => Sys2Proof.Machine.execSlaR r s
  | .slaIndHl => Sys2Proof.Machine.execSlaIndHl s
  | .sraR r => Sys2Proof.Machine.execSraR r s
  | .sraIndHl => Sys2Proof.Machine.execSraIndHl s
  | .sllR r => Sys2Proof.Machine.execSllR r s
  | .sllIndHl => Sys2Proof.Machine.execSllIndHl s
  | .srlR r => Sys2Proof.Machine.execSrlR r s
  | .srlIndHl => Sys2Proof.Machine.execSrlIndHl s
  | .bitBR b r => Sys2Proof.Machine.execBitBR b r s
  | .bitBIndHl b => Sys2Proof.Machine.execBitBIndHl b s
  | .resBR b r => Sys2Proof.Machine.execResBR b r s
  | .resBIndHl b => Sys2Proof.Machine.execResBIndHl b s
  | .setBR b r => Sys2Proof.Machine.execSetBR b r s
  | .setBIndHl b => Sys2Proof.Machine.execSetBIndHl b s
  | .inRIndC r => Sys2Proof.Machine.execInRIndC r s
  | .inIndC => Sys2Proof.Machine.execInIndC s
  | .outIndCR r => Sys2Proof.Machine.execOutIndCR r s
  | .outIndCZero => Sys2Proof.Machine.execOutIndCZero s
  | .sbcHlSs ss => Sys2Proof.Machine.execSbcHlSs ss s
  | .adcHlSs ss => Sys2Proof.Machine.execAdcHlSs ss s
  | .ldIndNnDd dd nn => Sys2Proof.Machine.execLdIndNnDd dd nn s
  | .ldDdIndNn dd nn => Sys2Proof.Machine.execLdDdIndNn dd nn s
  | .neg v => Sys2Proof.Machine.execNeg v s
  | .retn v => Sys2Proof.Machine.execRetn v s
  | .reti => Sys2Proof.Machine.execReti s
  | .imZero v => Sys2Proof.Machine.execImZero v s
  | .imOne v => Sys2Proof.Machine.execImOne v s
  | .imTwo v => Sys2Proof.Machine.execImTwo v s
  | .ldVectorA => Sys2Proof.Machine.execLdVectorA s
  | .ldRefreshA => Sys2Proof.Machine.execLdRefreshA s
  | .ldAVector => Sys2Proof.Machine.execLdAVector s
  | .ldARefresh => Sys2Proof.Machine.execLdARefresh s
  | .rrd => Sys2Proof.Machine.execRrd s
  | .rld => Sys2Proof.Machine.execRld s
  | .ldi => Sys2Proof.Machine.execLdi s
  | .cpi => Sys2Proof.Machine.execCpi s
  | .ini => Sys2Proof.Machine.execIni s
  | .outi => Sys2Proof.Machine.execOuti s
  | .ldd => Sys2Proof.Machine.execLdd s
  | .cpd => Sys2Proof.Machine.execCpd s
  | .ind => Sys2Proof.Machine.execInd s
  | .outd => Sys2Proof.Machine.execOutd s
  | .ldir => Sys2Proof.Machine.execLdir s
  | .cpir => Sys2Proof.Machine.execCpir s
  | .inir => Sys2Proof.Machine.execInir s
  | .otir => Sys2Proof.Machine.execOtir s
  | .lddr => Sys2Proof.Machine.execLddr s
  | .cpdr => Sys2Proof.Machine.execCpdr s
  | .indr => Sys2Proof.Machine.execIndr s
  | .otdr => Sys2Proof.Machine.execOtdr s
  | .nopEd v => Sys2Proof.Machine.execNopEd v s
  | .addIdxPp x pp => Sys2Proof.Machine.execAddIdxPp x pp s
  | .ldIdxNn x nn => Sys2Proof.Machine.execLdIdxNn x nn s
  | .ldIndNnIdx x nn => Sys2Proof.Machine.execLdIndNnIdx x nn s
  | .ldIdxIndNn x nn => Sys2Proof.Machine.execLdIdxIndNn x nn s
  | .incIdx x => Sys2Proof.Machine.execIncIdx x s
  | .decIdx x => Sys2Proof.Machine.execDecIdx x s
  | .incIdxHalf x h => Sys2Proof.Machine.execIncIdxHalf x h s
  | .decIdxHalf x h => Sys2Proof.Machine.execDecIdxHalf x h s
  | .ldIdxHalfN x h n => Sys2Proof.Machine.execLdIdxHalfN x h n s
  | .incIndIdx x d => Sys2Proof.Machine.execIncIndIdx x d s
  | .decIndIdx x d => Sys2Proof.Machine.execDecIndIdx x d s
  | .ldIndIdxN x d n => Sys2Proof.Machine.execLdIndIdxN x d n s
  | .ldRIndIdx x r d => Sys2Proof.Machine.execLdRIndIdx x r d s
  | .ldIndIdxR x d r => Sys2Proof.Machine.execLdIndIdxR x d r s
  | .ldRIdxHalf x r h => Sys2Proof.Machine.execLdRIdxHalf x r h s
  | .ldIdxHalfR x h r => Sys2Proof.Machine.execLdIdxHalfR x h r s
  | .ldIdxHalfIdxHalf x h h' => Sys2Proof.Machine.execLdIdxHalfIdxHalf x h h' s
  | .addAIdxHalf x h => Sys2Proof.Machine.execAddAIdxHalf x h s
  | .addAIndIdx x d => Sys2Proof.Machine.execAddAIndIdx x d s
  | .adcAIdxHalf x h => Sys2Proof.Machine.execAdcAIdxHalf x h s
  | .adcAIndIdx x d => Sys2Proof.Machine.execAdcAIndIdx x d s
  | .subIdxHalf x h => Sys2Proof.Machine.execSubIdxHalf x h s
  | .subIndIdx x d => Sys2Proof.Machine.execSubIndIdx x d s
  | .sbcAIdxHalf x h => Sys2Proof.Machine.execSbcAIdxHalf x h s
  | .sbcAIndIdx x d => Sys2Proof.Machine.execSbcAIndIdx x d s
  | .andIdxHalf x h => Sys2Proof.Machine.execAndIdxHalf x h s
  | .andIndIdx x d => Sys2Proof.Machine.execAndIndIdx x d s
  | .xorIdxHalf x h => Sys2Proof.Machine.execXorIdxHalf x h s
  | .xorIndIdx x d => Sys2Proof.Machine.execXorIndIdx x d s
  | .orIdxHalf x h => Sys2Proof.Machine.execOrIdxHalf x h s
  | .orIndIdx x d => Sys2Proof.Machine.execOrIndIdx x d s
  | .cpIdxHalf x h => Sys2Proof.Machine.execCpIdxHalf x h s
  | .cpIndIdx x d => Sys2Proof.Machine.execCpIndIdx x d s
  | .popIdx x => Sys2Proof.Machine.execPopIdx x s
  | .exIndSpIdx x => Sys2Proof.Machine.execExIndSpIdx x s
  | .pushIdx x => Sys2Proof.Machine.execPushIdx x s
  | .jpIndIdx x => Sys2Proof.Machine.execJpIndIdx x s
  | .ldSpIdx x => Sys2Proof.Machine.execLdSpIdx x s
  | .ignoredIndexPrefix x op => Sys2Proof.Machine.execIgnoredIndexPrefix x op s
  | .rlcIndIdx x d => Sys2Proof.Machine.execRlcIndIdx x d s
  | .rlcIndIdxR x d r => Sys2Proof.Machine.execRlcIndIdxR x d r s
  | .rrcIndIdx x d => Sys2Proof.Machine.execRrcIndIdx x d s
  | .rrcIndIdxR x d r => Sys2Proof.Machine.execRrcIndIdxR x d r s
  | .rlIndIdx x d => Sys2Proof.Machine.execRlIndIdx x d s
  | .rlIndIdxR x d r => Sys2Proof.Machine.execRlIndIdxR x d r s
  | .rrIndIdx x d => Sys2Proof.Machine.execRrIndIdx x d s
  | .rrIndIdxR x d r => Sys2Proof.Machine.execRrIndIdxR x d r s
  | .slaIndIdx x d => Sys2Proof.Machine.execSlaIndIdx x d s
  | .slaIndIdxR x d r => Sys2Proof.Machine.execSlaIndIdxR x d r s
  | .sraIndIdx x d => Sys2Proof.Machine.execSraIndIdx x d s
  | .sraIndIdxR x d r => Sys2Proof.Machine.execSraIndIdxR x d r s
  | .sllIndIdx x d => Sys2Proof.Machine.execSllIndIdx x d s
  | .sllIndIdxR x d r => Sys2Proof.Machine.execSllIndIdxR x d r s
  | .srlIndIdx x d => Sys2Proof.Machine.execSrlIndIdx x d s
  | .srlIndIdxR x d r => Sys2Proof.Machine.execSrlIndIdxR x d r s
  | .bitBIndIdx x d b z => Sys2Proof.Machine.execBitBIndIdx x d b z s
  | .resBIndIdx x d b => Sys2Proof.Machine.execResBIndIdx x d b s
  | .resBIndIdxR x d b r => Sys2Proof.Machine.execResBIndIdxR x d b r s
  | .setBIndIdx x d b => Sys2Proof.Machine.execSetBIndIdx x d b s
  | .setBIndIdxR x d b r => Sys2Proof.Machine.execSetBIndIdxR x d b r s

end Sys2Proof.Machine
end

