-- ==== Sys2Proof/Machine/Fetch.lean ====
section
/-! DEFINITION. Fetching and dispatching (30_encoding.md R119 to R126): the signal check, the halted
cycle, which instruction the next bytes are, what the step fetches of it before its Operation, and
the step itself over any meaning `run` of the instructions. Also how a word is placed to be
fetched next. -/

namespace Sys2Proof.Machine

open Sys2Proof

/-- The k-th byte from PC: what the k-th read from now answers there. The bytes of an instruction are
read in this order and before any byte of data (log 16). -/
def State.streamByte (s : State) (k : Nat) : Byte := s.memAnswer k (s.pc + BitVec.ofNat 16 k)

/-- The instruction the next bytes are. While an index prefix is pending its byte is already fetched
and stands before the bytes at PC (R119, R121). -/
def State.nextInstr (s : State) : Instr :=
  match s.pendingIndex with
  | none => decodeBytes (s.streamByte 0) (s.streamByte 1) (s.streamByte 2) (s.streamByte 3)
  | some x => decodeBytes x.prefixByte (s.streamByte 0) (s.streamByte 1) (s.streamByte 2)

/-- Whether the instruction belongs to the DD/FD+CB table (R123). -/
def isIdxCb (i : Instr) : Bool :=
  match encode i with
  | b0 :: b1 :: _ => isIndexPrefix b0 && b1 == 0xCB
  | _ => false

/-- How many bytes of the instruction are M1 fetches (R119, R122 to R124): the opcode, and before it
the prefix if it has one; for an ignored index prefix the prefix alone (44_arith8_control.md R358).
The displacement and opcode after `P 0xCB` are none (R123). -/
def m1Count (i : Instr) : Nat :=
  match i with
  | .ignoredIndexPrefix _ _ => 1
  | i =>
    match encode i with
    | b0 :: _ => if b0 = 0xCB ∨ b0 = 0xED ∨ isIndexPrefix b0 then 2 else 1
    | [] => 0

/-- What the step fetches of an instruction before its Operation (R119, 00_scope.md R14): the M1
fetches, less the one of a pending prefix; and for the DD/FD+CB table the displacement, the opcode
byte by an ordinary read, and two idle T-states at its address (R123). PENDING_INDEX is taken up. -/
def State.fetchInstr (s : State) (i : Instr) : State :=
  let s1 := { s with pendingIndex := none }.fetchM1s (m1Count i - (if s.pendingIndex.isSome then 1 else 0))
  if isIdxCb i then
    let s2 := s1.imm8
    let s3 := (s2.memRead s2.pc).2.idle s2.pc 2
    { s3 with pc := s3.pc + 1 }
  else s1

/-- Whether the step goes on with the byte after this instruction: an ignored index prefix that is not
redundant (R118 item 4, R119). -/
def goesOn (i : Instr) : Bool :=
  match i with
  | .ignoredIndexPrefix _ op => !isIndexPrefix op
  | _ => false

/-- Fetch, decode and run one instruction, and after an ignored index prefix the one behind it. -/
def State.runNext (run : Instr → State → Host.Outcome State Fault Refusal) (s : State) :
    Host.Outcome State Fault Refusal :=
  let i := s.nextInstr
  match run i (s.fetchInstr i) with
  | .next s1 => if goesOn i then run s1.nextInstr (s1.fetchInstr s1.nextInstr) else .next s1
  | o => o

/-- `StepInstruction()` (R119): the signal check in the order RESET, NMI, INT (60_exceptions.md R534,
R535), then the halted cycle, then the fetch. While a prefix is pending neither NMI nor INT is
serviced (10_state.md R46; 90_conflicts.md C4, C14), be INT_BLOCKED set or not. -/
def State.stepWith (run : Instr → State → Host.Outcome State Fault Refusal) (s : State) :
    Host.Outcome State Fault Refusal :=
  if s.resetRequested then .next s.serviceReset
  else if s.nmiRequested && s.pendingIndex.isNone then .next s.serviceNmi
  else if s.intRequested && s.iff1 && !s.intBlocked && s.pendingIndex.isNone then .next s.serviceInt
  else
    let s1 := { s with intBlocked := false }
    if s1.halted then .next s1.haltedCycle else s1.runNext run

/-- The state with bytes stored from PC up, where the next step fetches, and nothing that would keep
it from fetching them there (log 10): no request, not halted, no prefix pending, no other answer named
by the host. -/
def State.placeAtPc (s : State) (bs : List Byte) : State :=
  { s with
    mem := s.mem.writeBytes s.pc bs
    memIn := []
    resetRequested := false
    nmiRequested := false
    intRequested := false
    halted := false
    pendingIndex := none }

end Sys2Proof.Machine
end

