-- ==== Sys2Proof/Machine/Step.lean ====
section
/-! DEFINITION. One call of `StepInstruction()` (30_encoding.md R119), and the placing of one word of the
opcode table where it fetches next. -/

namespace Sys2Proof.Machine

open Sys2Proof

/-- One step: a signal service, a halted cycle, or one instruction run by `exec`. -/
def step (s : State) : Host.Outcome State Fault Refusal := s.stepWith exec

/-- The state whose next step fetches and runs exactly the instruction of a word of
spec/opcode_table.json (log 10). -/
def State.withFetchWord (s : State) (nbits w : Nat) : State := s.placeAtPc (tableWordBytes nbits w)

end Sys2Proof.Machine
end

