-- ==== Sys2Proof/Machine/HostActions.lean ====
section
/-! DEFINITION. What the host does between steps: it sets the inputs (10_state.md R48), names the
answers to coming reads (20_memory.md R82), and reads and restores the whole register file through raw
accessors with the check of R50. None of these is a step. -/

namespace Sys2Proof.Machine

open Sys2Proof

/-- The host sets the three request inputs and DataBus (R48, 60_exceptions.md R532). -/
def State.withInputs (s : State) (reset nmi int : Bool) (dataBus : Byte) : State :=
  { s with resetRequested := reset, nmiRequested := nmi, intRequested := int, dataBus := dataBus }

/-- The host names what it answers to the next memory reads and the next port reads (20_memory.md R82;
logs 5 and 11). -/
def State.withAnswers (s : State) (memory ports : List Byte) : State :=
  { s with memIn := memory, portIn := ports }

/-- The register file as the accessors pass it: every item of R31 to R47 as a number, so that a value
wider than its field can be offered (and refused). -/
structure Snapshot where
  af : Nat
  bc : Nat
  de : Nat
  hl : Nat
  afAlt : Nat
  bcAlt : Nat
  deAlt : Nat
  hlAlt : Nat
  ix : Nat
  iy : Nat
  sp : Nat
  pc : Nat
  i : Nat
  r : Nat
  memptr : Nat
  iff1 : Nat
  iff2 : Nat
  im : Nat
  halted : Nat
  intBlocked : Nat
  pendingIndex : Option IdxReg
  tStates : Nat
  deriving DecidableEq, Repr

/-- IM as a number (R43). -/
def imNumber : IntMode → Nat
  | .im0 => 0
  | .im1 => 1
  | .im2 => 2

/-- The interrupt mode of a number, if there is one. -/
def imOfNumber : Nat → Option IntMode
  | 0 => some .im0
  | 1 => some .im1
  | 2 => some .im2
  | _ => none

/-- The get accessors (R50). -/
def State.capture (s : State) : Snapshot where
  af := s.af.toNat
  bc := s.bc.toNat
  de := s.de.toNat
  hl := s.hl.toNat
  afAlt := s.afAlt.toNat
  bcAlt := s.bcAlt.toNat
  deAlt := s.deAlt.toNat
  hlAlt := s.hlAlt.toNat
  ix := s.ix.toNat
  iy := s.iy.toNat
  sp := s.sp.toNat
  pc := s.pc.toNat
  i := s.i.toNat
  r := s.r.toNat
  memptr := s.memptr.toNat
  iff1 := s.iff1.toNat
  iff2 := s.iff2.toNat
  im := imNumber s.im
  halted := s.halted.toNat
  intBlocked := s.intBlocked.toNat
  pendingIndex := s.pendingIndex
  tStates := s.tStates

/-- Every value fits its field (R50: "a value wider than its field" is impossible). -/
def Snapshot.fits (n : Snapshot) : Bool :=
  [n.af, n.bc, n.de, n.hl, n.afAlt, n.bcAlt, n.deAlt, n.hlAlt, n.ix, n.iy, n.sp, n.pc, n.memptr].all
      (fun v => decide (v < 65536))
    && [n.i, n.r].all (fun v => decide (v < 256))
    && [n.iff1, n.iff2, n.halted, n.intBlocked].all (fun v => decide (v < 2))

/-- The set accessors (R50): the combination is written, or refused with `InvalidState` and nothing
changed: IM outside 0, 1, 2, a value wider than its field, HALTED = 1 with a pending prefix. The
host's own side (inputs, memory, answers, callback log) is no part of the register file. -/
def State.restore (s : State) (n : Snapshot) : Host.Outcome State Fault Refusal :=
  match imOfNumber n.im with
  | none => .fault .invalidState
  | some im =>
    if n.fits && !(n.halted == 1 && n.pendingIndex.isSome) then
      .next { s with
        af := BitVec.ofNat 16 n.af
        bc := BitVec.ofNat 16 n.bc
        de := BitVec.ofNat 16 n.de
        hl := BitVec.ofNat 16 n.hl
        afAlt := BitVec.ofNat 16 n.afAlt
        bcAlt := BitVec.ofNat 16 n.bcAlt
        deAlt := BitVec.ofNat 16 n.deAlt
        hlAlt := BitVec.ofNat 16 n.hlAlt
        ix := BitVec.ofNat 16 n.ix
        iy := BitVec.ofNat 16 n.iy
        sp := BitVec.ofNat 16 n.sp
        pc := BitVec.ofNat 16 n.pc
        i := BitVec.ofNat 8 n.i
        r := BitVec.ofNat 8 n.r
        memptr := BitVec.ofNat 16 n.memptr
        iff1 := n.iff1 == 1
        iff2 := n.iff2 == 1
        im := im
        halted := n.halted == 1
        intBlocked := n.intBlocked == 1
        pendingIndex := n.pendingIndex
        tStates := n.tStates }
    else .fault .invalidState

end Sys2Proof.Machine
end

