-- ==== Sys2Proof/Safety.lean ====
section
/-! DEFINITION. The terms the statements are written in: what a run may change (frames), what it puts on
the bus, the invariant of the machine, the ALU written once more in integers and single bits, the
step written once more as 30_encoding.md R119 prints it, and the timing column of
spec/opcode_table.json. No definition of the machine uses this file. -/

namespace Sys2Proof.Machine

open Sys2Proof

/-! ## Frames -/

/-- The parts of the state that a statement names apart (`vector` is I, `refresh` is R); memory is said
by `Frame`, and T, the callback log and the answers used up by `Issued`. -/
inductive Part where
  | reg (r : Reg8) | f | afAlt | bcAlt | deAlt | hlAlt | half (x : IdxReg) (h : Half) | sp | pc
  | vector | refresh | memptr | iff1 | iff2 | im | halted | intBlocked | pendingIndex | inputs | ports
  deriving DecidableEq, Repr

/-- A part reads the same in both states. -/
def Part.same (p : Part) (s t : State) : Prop :=
  match p with
  | .reg r => t.reg r = s.reg r
  | .f => t.f = s.f
  | .afAlt => t.afAlt = s.afAlt
  | .bcAlt => t.bcAlt = s.bcAlt
  | .deAlt => t.deAlt = s.deAlt
  | .hlAlt => t.hlAlt = s.hlAlt
  | .half x h => t.half x h = s.half x h
  | .sp => t.sp = s.sp
  | .pc => t.pc = s.pc
  | .vector => t.i = s.i
  | .refresh => t.r = s.r
  | .memptr => t.memptr = s.memptr
  | .iff1 => t.iff1 = s.iff1
  | .iff2 => t.iff2 = s.iff2
  | .im => t.im = s.im
  | .halted => t.halted = s.halted
  | .intBlocked => t.intBlocked = s.intBlocked
  | .pendingIndex => t.pendingIndex = s.pendingIndex
  | .inputs => t.resetRequested = s.resetRequested ∧ t.nmiRequested = s.nmiRequested
      ∧ t.intRequested = s.intRequested ∧ t.dataBus = s.dataBus
  | .ports => t.portIn = s.portIn ∧ t.draws = s.draws

/-- Nothing but the parts listed and the bytes at the addresses listed differs between two states;
every other byte of memory reads as before. -/
def Frame (changed : List Part) (stored : List Word) (s t : State) : Prop :=
  (∀ p, p ∉ changed → p.same s t) ∧ ∀ a : Word, a ∉ stored → t.byteAt a = s.byteAt a

/-- The T-states the core charges for a callback (20_memory.md R82). -/
def callCost : BusCall → Nat
  | .readFetch _ => 4
  | .readMem _ => 3
  | .writeMem _ _ => 3
  | .readPort _ => 4
  | .writePort _ _ => 4
  | .noRequestMem _ => 1
  | .noRequestPort _ => 0
  | .ackReset => 0
  | .ackNmi => 0
  | .ackInt => 0

/-- The callbacks that read memory: each uses one answer of the host. -/
def isMemRead : BusCall → Bool
  | .readFetch _ => true
  | .readMem _ => true
  | .writeMem _ _ => false
  | .readPort _ => false
  | .writePort _ _ => false
  | .noRequestMem _ => false
  | .noRequestPort _ => false
  | .ackReset => false
  | .ackNmi => false
  | .ackInt => false

/-- Exactly these callbacks were issued, in this order (oldest first), T grew by their cost, and each
memory read among them used one of the answers the host had named. -/
def Issued (calls : List BusCall) (s t : State) : Prop :=
  t.bus = calls.reverse ++ s.bus ∧ t.tStates = s.tStates + (calls.map callCost).sum
    ∧ t.memIn = s.memIn.drop (calls.countP isMemRead)

/-- The instruction, run by `exec`, answers a next state: it issues exactly these callbacks, changes
nothing but these parts and the bytes at these addresses, and leaves a state with `post`. -/
def Completes (i : Instr) (s : State) (changed : List Part) (stored : List Word)
    (calls : List BusCall) (post : State → Prop) : Prop :=
  ∃ t, exec i s = .next t ∧ Issued calls s t ∧ Frame changed stored s t ∧ post t

/-- The parts of a pair of `rp`. -/
def pairSpParts : PairSp → List Part
  | .bc => [.reg .b, .reg .c]
  | .de => [.reg .d, .reg .e]
  | .hl => [.reg .h, .reg .l]
  | .sp => [.sp]

/-- The parts of a pair of `rp2`. -/
def pairAfParts : PairAf → List Part
  | .bc => [.reg .b, .reg .c]
  | .de => [.reg .d, .reg .e]
  | .hl => [.reg .h, .reg .l]
  | .af => [.reg .a, .f]

/-- The two halves of an index register. -/
def idxParts (x : IdxReg) : List Part := [.half x .high, .half x .low]

/-- The callbacks of reading the displacement of a DD/FD instruction at PC (44_arith8_control.md
R330): the read, then five idle T-states at its address. -/
def dispCalls (s : State) : List BusCall := .readMem s.pc :: List.replicate 5 (.noRequestMem s.pc)

/-- The callbacks of reading a 16-bit immediate at PC. -/
def nnCalls (s : State) : List BusCall := [.readMem s.pc, .readMem (s.pc + 1)]

/-- The callbacks of pushing a word (00_scope.md R11): high byte at SP - 1, low byte at SP - 2. -/
def pushCalls (s : State) (v : Word) : List BusCall :=
  [.writeMem (s.sp - 1) (hiByte v), .writeMem (s.sp - 2) (loByte v)]

/-- A word stands pushed: SP is two lower, high byte at the old SP - 1, low byte at the old SP - 2. -/
def Pushed (v : Word) (s t : State) : Prop :=
  t.sp = s.sp - 2 ∧ t.byteAt (s.sp - 1) = hiByte v ∧ t.byteAt (s.sp - 2) = loByte v

/-- The word the host's memory holds at an address, low byte first (20_memory.md R84). -/
def State.wordAt (s : State) (a : Word) : Word := join (s.byteAt (a + 1)) (s.byteAt a)

/-- The word that memory reads k and k + 1 from now answer, of an address and the next one. -/
def State.wordAnswer (s : State) (k : Nat) (a : Word) : Word :=
  join (s.memAnswer (k + 1) (a + 1)) (s.memAnswer k a)

/-! ## The ALU in integers and single bits (40_alu_flags.md) -/

/-- Parity flag of R171: an even number of 1 bits. -/
def evenOnes (v : Byte) : Bool :=
  !(v.getLsbD 0 ^^ v.getLsbD 1 ^^ v.getLsbD 2 ^^ v.getLsbD 3 ^^ v.getLsbD 4 ^^ v.getLsbD 5
    ^^ v.getLsbD 6 ^^ v.getLsbD 7)

/-- The sum, and its flags: S, Z, F5, F3 from the result; H, C the carries out of bits 3 and 7; P/V that
the signed sum leaves -128 .. 127 (R172). -/
def addBytes (a b : Byte) (c : Bool) : Byte × Byte :=
  let r := BitVec.ofNat 8 (a.toNat + b.toNat + c.toNat)
  let t := a.toInt + b.toInt + (c.toNat : Int)
  (r, fbyte (r.getLsbD 7) (r == 0) (r.getLsbD 5) (decide (a.toNat % 16 + b.toNat % 16 + c.toNat > 15))
    (r.getLsbD 3) (decide (t < -128) || decide (t > 127)) false
    (decide (a.toNat + b.toNat + c.toNat > 255)))

/-- The difference, and its flags: H, C the borrows into bits 3 and 7; P/V that the signed difference
leaves -128 .. 127 (R173). -/
def subBytes (a b : Byte) (c : Bool) : Byte × Byte :=
  let r := a - b - BitVec.ofNat 8 c.toNat
  let t := a.toInt - b.toInt - (c.toNat : Int)
  (r, fbyte (r.getLsbD 7) (r == 0) (r.getLsbD 5) (decide (a.toNat % 16 < b.toNat % 16 + c.toNat))
    (r.getLsbD 3) (decide (t < -128) || decide (t > 127)) true (decide (a.toNat < b.toNat + c.toNat)))

/-- The flags of a logical result (R176). -/
def logicBits (r : Byte) (h : Bool) : Byte :=
  fbyte (r.getLsbD 7) (r == 0) (r.getLsbD 5) h (r.getLsbD 3) (evenOnes r) false false

/-- A and F after an ALU operation on A, an operand and the old carry (44_arith8_control.md R331 to
R338). -/
def aluBits (op : AluOp) (a v : Byte) (c : Bool) : Byte × Byte :=
  match op with
  | .add => addBytes a v false
  | .adc => addBytes a v c
  | .sub => subBytes a v false
  | .sbc => subBytes a v c
  | .and => (a &&& v, logicBits (a &&& v) true)
  | .xor => (a ^^^ v, logicBits (a ^^^ v) false)
  | .or => (a ||| v, logicBits (a ||| v) false)
  | .cp =>
    let r := a - v
    (a, fbyte (r.getLsbD 7) (a == v) (v.getLsbD 5) (decide (a.toNat % 16 < v.toNat % 16)) (v.getLsbD 3)
      (decide (a.toInt - v.toInt < -128) || decide (a.toInt - v.toInt > 127)) true
      (decide (a.toNat < v.toNat)))

/-- A byte plus 1 with the flags of R177; C is the old one. -/
def incBits (v f : Byte) : Byte × Byte :=
  let r := v + 1
  (r, fbyte (r.getLsbD 7) (r == 0) (r.getLsbD 5) (decide (v.toNat % 16 = 15)) (r.getLsbD 3)
    (decide (v.toInt = 127)) false (flagC f))

/-- A byte minus 1 with the flags of R178; C is the old one. -/
def decBits (v f : Byte) : Byte × Byte :=
  let r := v - 1
  (r, fbyte (r.getLsbD 7) (r == 0) (r.getLsbD 5) (decide (v.toNat % 16 = 0)) (r.getLsbD 3)
    (decide (v.toInt = -128)) true (flagC f))

/-- The rotates and shifts in numbers (R179): the result and the bit shifted out. -/
def rotBits (k : RotOp) (v : Byte) (c : Bool) : Byte × Bool :=
  let n := v.toNat
  match k with
  | .rlc => (byteOf (2 * n + n / 128), decide (n ≥ 128))
  | .rrc => (byteOf (n / 2 + 128 * (n % 2)), decide (n % 2 = 1))
  | .rl => (byteOf (2 * n + c.toNat), decide (n ≥ 128))
  | .rr => (byteOf (n / 2 + 128 * c.toNat), decide (n % 2 = 1))
  | .sla => (byteOf (2 * n), decide (n ≥ 128))
  | .sra => (byteOf (n / 2 + 128 * (n / 128)), decide (n % 2 = 1))
  | .sll => (byteOf (2 * n + 1), decide (n ≥ 128))
  | .srl => (byteOf (n / 2), decide (n % 2 = 1))

/-- Decimal adjust in numbers (R183). -/
def daaBits (a f : Byte) : Byte × Byte :=
  let n := a.toNat
  let low := if flagH f ∨ n % 16 > 9 then 6 else 0
  let high := if flagC f ∨ n > 153 then 96 else 0
  let r := if flagN f then byteOf (n + 256 - (low + high)) else byteOf (n + low + high)
  (r, fbyte (r.getLsbD 7) (r == 0) (r.getLsbD 5)
    (if flagN f then flagH f && decide (n % 16 < 6) else decide (n % 16 > 9)) (r.getLsbD 3) (evenOnes r)
    (flagN f) (flagC f || decide (n > 153)))

/-- The 16-bit sum with the flags of R184: S, Z and P/V are the old ones. -/
def addWords (a b : Word) (f : Byte) : Word × Byte :=
  let r := a + b
  (r, fbyte (flagS f) (flagZ f) (r.getLsbD 13) (decide (a.toNat % 4096 + b.toNat % 4096 > 4095))
    (r.getLsbD 11) (flagPV f) false (decide (a.toNat + b.toNat > 65535)))

/-- The 16-bit sum with carry, and its flags (R185). -/
def adcWords (a b : Word) (c : Bool) : Word × Byte :=
  let r := BitVec.ofNat 16 (a.toNat + b.toNat + c.toNat)
  let t := a.toInt + b.toInt + (c.toNat : Int)
  (r, fbyte (r.getLsbD 15) (r == 0) (r.getLsbD 13)
    (decide (a.toNat % 4096 + b.toNat % 4096 + c.toNat > 4095)) (r.getLsbD 11)
    (decide (t < -32768) || decide (t > 32767)) false (decide (a.toNat + b.toNat + c.toNat > 65535)))

/-- The 16-bit difference with borrow, and its flags (R185). -/
def sbcWords (a b : Word) (c : Bool) : Word × Byte :=
  let r := a - b - BitVec.ofNat 16 c.toNat
  let t := a.toInt - b.toInt - (c.toNat : Int)
  (r, fbyte (r.getLsbD 15) (r == 0) (r.getLsbD 13)
    (decide (a.toNat % 4096 < b.toNat % 4096 + c.toNat)) (r.getLsbD 11)
    (decide (t < -32768) || decide (t > 32767)) true (decide (a.toNat < b.toNat + c.toNat)))

/-- The flags of a byte read into a register by `IN r,(C)`, and of the new A of RLD and RRD: as a
logical result, but C is the old one. -/
def readBits (v f : Byte) : Byte :=
  fbyte (v.getLsbD 7) (v == 0) (v.getLsbD 5) false (v.getLsbD 3) (evenOnes v) false (flagC f)

/-- The flags of a block input or output (49_io.md R506), from the byte moved, the new B and the sum
k. -/
def ioBits (v b : Byte) (k : Nat) : Byte :=
  fbyte (b.getLsbD 7) (b == 0) (b.getLsbD 5) (decide (k > 255)) (b.getLsbD 3)
    (evenOnes (byteOf (k % 8) ^^^ b)) (v.getLsbD 7) (decide (k > 255))

/-! ## The instructions of one shape -/

/-- The five forms of the source operand of the 8-bit ALU (44_arith8_control.md R330). -/
def aluR : AluOp → Reg8 → Instr
  | .add => .addAR | .adc => .adcAR | .sub => .subR | .sbc => .sbcAR
  | .and => .andR | .xor => .xorR | .or => .orR | .cp => .cpR

/-- Form (HL). -/
def aluIndHl : AluOp → Instr
  | .add => .addAIndHl | .adc => .adcAIndHl | .sub => .subIndHl | .sbc => .sbcAIndHl
  | .and => .andIndHl | .xor => .xorIndHl | .or => .orIndHl | .cp => .cpIndHl

/-- Form n. -/
def aluN : AluOp → Byte → Instr
  | .add => .addAN | .adc => .adcAN | .sub => .subN | .sbc => .sbcAN
  | .and => .andN | .xor => .xorN | .or => .orN | .cp => .cpN

/-- Forms IDXh and IDXl. -/
def aluIdxHalf : AluOp → IdxReg → Half → Instr
  | .add => .addAIdxHalf | .adc => .adcAIdxHalf | .sub => .subIdxHalf | .sbc => .sbcAIdxHalf
  | .and => .andIdxHalf | .xor => .xorIdxHalf | .or => .orIdxHalf | .cp => .cpIdxHalf

/-- Form (IDX+d). -/
def aluIndIdx : AluOp → IdxReg → Byte → Instr
  | .add => .addAIndIdx | .adc => .adcAIndIdx | .sub => .subIndIdx | .sbc => .sbcAIndIdx
  | .and => .andIndIdx | .xor => .xorIndIdx | .or => .orIndIdx | .cp => .cpIndIdx

/-- The instruction is the operation in one of the five forms, and the byte is the operand it takes in
this state (44_arith8_control.md R330). -/
def IsAluForm (op : AluOp) (s : State) (i : Instr) (v : Byte) : Prop :=
  (∃ r, i = aluR op r ∧ v = s.reg r)
    ∨ i = aluIndHl op ∧ v = s.memAnswer 0 s.hl
    ∨ i = aluN op v
    ∨ (∃ x h, i = aluIdxHalf op x h ∧ v = s.half x h)
    ∨ ∃ x d, i = aluIndIdx op x d ∧ v = s.memAnswer 1 (s.idxAddr x d)

/-- The operations of the CB table that write their operand. -/
inductive CbOp where
  | rot (k : RotOp) | res (b : Fin 8) | set (b : Fin 8)
  deriving DecidableEq, Repr

/-- The operation on a register. -/
def cbR (op : CbOp) (r : Reg8) : Instr :=
  match op with
  | .rot .rlc => .rlcR r
  | .rot .rrc => .rrcR r
  | .rot .rl => .rlR r
  | .rot .rr => .rrR r
  | .rot .sla => .slaR r
  | .rot .sra => .sraR r
  | .rot .sll => .sllR r
  | .rot .srl => .srlR r
  | .res b => .resBR b r
  | .set b => .setBR b r

/-- The operation on (HL). -/
def cbIndHl (op : CbOp) : Instr :=
  match op with
  | .rot .rlc => .rlcIndHl
  | .rot .rrc => .rrcIndHl
  | .rot .rl => .rlIndHl
  | .rot .rr => .rrIndHl
  | .rot .sla => .slaIndHl
  | .rot .sra => .sraIndHl
  | .rot .sll => .sllIndHl
  | .rot .srl => .srlIndHl
  | .res b => .resBIndHl b
  | .set b => .setBIndHl b

/-- The operation on (IDX+d). -/
def cbIndIdx (op : CbOp) (x : IdxReg) (d : Byte) : Instr :=
  match op with
  | .rot .rlc => .rlcIndIdx x d
  | .rot .rrc => .rrcIndIdx x d
  | .rot .rl => .rlIndIdx x d
  | .rot .rr => .rrIndIdx x d
  | .rot .sla => .slaIndIdx x d
  | .rot .sra => .sraIndIdx x d
  | .rot .sll => .sllIndIdx x d
  | .rot .srl => .srlIndIdx x d
  | .res b => .resBIndIdx x d b
  | .set b => .setBIndIdx x d b

/-- The operation on (IDX+d) with the copy of the result to a register. -/
def cbIndIdxR (op : CbOp) (x : IdxReg) (d : Byte) (r : Reg8) : Instr :=
  match op with
  | .rot .rlc => .rlcIndIdxR x d r
  | .rot .rrc => .rrcIndIdxR x d r
  | .rot .rl => .rlIndIdxR x d r
  | .rot .rr => .rrIndIdxR x d r
  | .rot .sla => .slaIndIdxR x d r
  | .rot .sra => .sraIndIdxR x d r
  | .rot .sll => .sllIndIdxR x d r
  | .rot .srl => .srlIndIdxR x d r
  | .res b => .resBIndIdxR x d b r
  | .set b => .setBIndIdxR x d b r

/-- What an operation of the CB table makes of a byte and F: a rotate or shift writes all flags
(46_rotate_shift.md R404 to R413), RES and SET change one bit of the byte and keep F (47_bit.md
R433, R436). -/
def CbResult (op : CbOp) (v f w f' : Byte) : Prop :=
  match op with
  | .rot k => w = (rotBits k v (flagC f)).1
      ∧ f' = fbyte (w.getLsbD 7) (w == 0) (w.getLsbD 5) false (w.getLsbD 3) (evenOnes w) false
        (rotBits k v (flagC f)).2
  | .res b => (∀ n : Fin 8, w.getLsbD n = if n = b then false else v.getLsbD n) ∧ f' = f
  | .set b => (∀ n : Fin 8, w.getLsbD n = if n = b then true else v.getLsbD n) ∧ f' = f

/-- The part F if the operation writes flags. -/
def CbOp.flagParts : CbOp → List Part
  | .rot _ => [.f]
  | .res _ => []
  | .set _ => []

/-- Whether a condition holds of F (30_encoding.md R114). -/
def CondTrue (cc : Cond) (f : Byte) : Prop :=
  match cc with
  | .nz => flagZ f = false
  | .z => flagZ f = true
  | .nc => flagC f = false
  | .c => flagC f = true
  | .po => flagPV f = false
  | .pe => flagPV f = true
  | .p => flagS f = false
  | .m => flagS f = true

/-- The condition a `JR cc` tests, among the eight (48_jump_call_return.md R463). -/
def jrCondition : JrCond → Cond
  | .nz => .nz
  | .z => .z
  | .nc => .nc
  | .c => .c

/-! ## Signals -/

/-- RESET is serviced in this step (60_exceptions.md R534). -/
def State.takesReset (s : State) : Bool := s.resetRequested

/-- NMI is serviced in this step: requested, no prefix pending, and RESET not requested. -/
def State.takesNmi (s : State) : Bool := !s.resetRequested && s.nmiRequested && s.pendingIndex.isNone

/-- INT is serviced in this step: requested, IFF1 = 1, INT_BLOCKED = 0, no prefix pending (10_state.md
R46), and nothing before it. -/
def State.takesInt (s : State) : Bool :=
  !s.takesReset && !s.takesNmi && s.intRequested && s.iff1 && !s.intBlocked && s.pendingIndex.isNone

/-- No signal is serviced in this step. -/
def State.noSignal (s : State) : Bool := !s.takesReset && !s.takesNmi && !s.takesInt

/-- The return address an NMI or INT service pushes: past the HALT byte if halted (R537). -/
def State.returnAddress (s : State) : Word := if s.halted then s.pc + 1 else s.pc

/-- The number of times a callback stands in the log. -/
def State.timesIssued (s : State) (c : BusCall) : Nat := s.bus.count c

/-! ## The step as 30_encoding.md R119 prints it -/

/-- `Execute(...)` of R119: the last part of the algorithm, with the prefix seen so far and the opcode
just fetched. `exec` is the Operation; the operand bytes it is decoded with are those the next reads
answer at PC. -/
def stepExecute (idx : Option IdxReg) (op : Byte) (s : State) : Host.Outcome State Fault Refusal :=
  if op = 0xCB then
    match idx with
    | none => exec (decodeCb (s.streamByte 0)) s.fetchM1
    | some x =>
      let d := s.streamByte 0
      let s1 := s.imm8
      let op2 := s1.memRead s1.pc
      let s2 := op2.2.idle s1.pc 2
      exec (decodeIdxCb x d op2.1) { s2 with pc := s2.pc + 1 }
  else if op = 0xED then
    exec (decodeEd (s.streamByte 0) (s.streamByte 1) (s.streamByte 2)) s.fetchM1
  else
    match idx with
    | none => exec (decodeBase op (s.streamByte 0) (s.streamByte 1)) s
    | some x =>
      if indexAffected op then exec (decodeIdx x op (s.streamByte 0) (s.streamByte 1)) s
      else exec (decodeBase op (s.streamByte 0) (s.streamByte 1)) s

/-- `Step()` of R119, line by line. The loop over index prefixes runs at most twice, since a second
prefix ends the step. -/
def stepAlgorithm (s : State) : Host.Outcome State Fault Refusal :=
  if s.resetRequested = true then .next s.serviceReset
  else if s.nmiRequested = true ∧ s.pendingIndex = none then .next s.serviceNmi
  else if s.intRequested = true ∧ s.iff1 = true ∧ s.intBlocked = false then .next s.serviceInt
  else
    let s := { s with intBlocked := false }
    if s.halted = true then
      .next { s with
        memIn := s.memIn.drop 1
        bus := .readFetch s.pc :: s.bus
        r := refreshInc s.r
        tStates := s.tStates + 4 }
    else
      let idx := s.pendingIndex
      let s := { s with pendingIndex := none }
      let op := s.streamByte 0
      let s := s.fetchM1
      if isIndexPrefix op then
        match idx with
        | some _ => .next { s with pendingIndex := some (prefixIdx op), intBlocked := true }
        | none =>
          let op2 := s.streamByte 0
          let s := s.fetchM1
          if isIndexPrefix op2 then
            .next { s with pendingIndex := some (prefixIdx op2), intBlocked := true }
          else stepExecute (some (prefixIdx op)) op2 s
      else stepExecute idx op s

/-- The state in which the step runs the Operation of the instruction it decodes last, and that
instruction: after an ignored index prefix, the one behind it. -/
def State.runsInstr (s : State) : Instr × State :=
  let s := { s with intBlocked := false }
  let i := s.nextInstr
  if goesOn i then
    let s1 := s.fetchInstr i
    (s1.nextInstr, s1.fetchInstr s1.nextInstr)
  else (i, s.fetchInstr i)

/-- The bytes the next reads answer from PC up are these. -/
def State.BytesAtPc (s : State) (bs : List Byte) : Prop :=
  ∀ k : Nat, ∀ h : k < bs.length, s.streamByte k = bs[k]

/-! ## The invariant -/

/-- What holds of the state between steps, as far as the core brings it about: memory in its canonical
form; a pending prefix goes with INT_BLOCKED (10_state.md R45, R46) and never with HALTED (R50); and
IFF1 = 1 only with IFF2 = 1 (R42; a restore may set it otherwise, R50). -/
def Inv (s : State) : Prop :=
  s.mem.wf = true ∧ (s.pendingIndex ≠ none → s.intBlocked = true)
    ∧ (s.pendingIndex ≠ none → s.halted = false) ∧ (s.iff1 = true → s.iff2 = true)

/-! ## Which instruction does what -/

/-- The instructions whose Operation reads MEMPTR (10_state.md R39). -/
def readsMemptr (i : Instr) : Bool :=
  match i with
  | .bitBIndHl _ | .cpi | .cpd | .cpir | .cpdr => true
  | _ => false

/-- The instructions that set PC other than by fetching: jumps, calls, returns, restarts, HALT and the
repeating block instructions (10_state.md R36). -/
def setsPc (i : Instr) : Bool :=
  match i with
  | .jpNn _ | .jpCcNn _ _ | .jr _ | .jrCc _ _ | .jpIndHl | .jpIndIdx _ | .djnz _ | .callNn _
  | .callCcNn _ _ | .ret | .retCc _ | .reti | .retn _ | .rst _ | .halt | .ldir | .lddr | .cpir | .cpdr
  | .inir | .indr | .otir | .otdr => true
  | _ => false

/-- IFF1, IFF2, INT_BLOCKED and IM after an instruction (60_exceptions.md R552), from IFF1, IFF2 and IM
before it. -/
def interruptStateAfter (i : Instr) (s : State) : Bool × Bool × Bool × IntMode :=
  match i with
  | .ei => (true, true, true, s.im)
  | .di => (false, false, false, s.im)
  | .imZero _ => (s.iff1, s.iff2, false, .im0)
  | .imOne _ => (s.iff1, s.iff2, false, .im1)
  | .imTwo _ => (s.iff1, s.iff2, false, .im2)
  | .reti => (s.iff2, s.iff2, false, s.im)
  | .retn _ => (s.iff2, s.iff2, false, s.im)
  | .ignoredIndexPrefix _ op => (s.iff1, s.iff2, isIndexPrefix op, s.im)
  | _ => (s.iff1, s.iff2, false, s.im)

/-- Whether the longer time of a row with two applies, from the state in which its Operation starts:
the condition holds, B is not zero after DJNZ's decrement, or the block instruction repeats. -/
def takesLonger (i : Instr) (s : State) : Bool :=
  match i with
  | .jrCc cc _ => condHolds (jrCondition cc) s.f
  | .callCcNn cc _ => condHolds cc s.f
  | .retCc cc => condHolds cc s.f
  | .djnz _ => s.reg .b != 1
  | .ldir | .lddr => s.bc != 1
  | .cpir | .cpdr => s.bc != 1 && s.memAnswer 0 s.hl != s.a
  | .inir | .indr | .otir | .otdr => s.reg .b != 1
  | _ => false

/-- The column `t_states` of spec/opcode_table.json: taken or repeating, and not. -/
def tStatesColumn : Instr → Nat × Nat
  | .nop | .incR _ | .decR _ | .rlca | .rrca | .rla | .rra | .daa | .cpl | .scf | .ccf | .exAfAf
  | .halt | .ldRR _ _ | .addAR _ | .adcAR _ | .subR _ | .sbcAR _ | .andR _ | .xorR _ | .orR _ | .cpR _
  | .exx | .jpIndHl | .exDeHl | .di | .ei | .ignoredIndexPrefix _ _ => (4, 4)
  | .retCc _ => (11, 5)
  | .incSs _ | .decSs _ | .ldSpHl => (6, 6)
  | .ldIndBcA | .ldAIndBc | .ldIndDeA | .ldAIndDe | .ldRN _ _ | .ldRIndHl _ | .ldIndHlR _ | .addAIndHl
  | .addAN _ | .adcAIndHl | .adcAN _ | .subIndHl | .subN _ | .sbcAIndHl | .sbcAN _ | .andIndHl
  | .andN _ | .xorIndHl | .xorN _ | .orIndHl | .orN _ | .cpIndHl | .cpN _ => (7, 7)
  | .jrCc _ _ => (12, 7)
  | .rlcR _ | .rrcR _ | .rlR _ | .rrR _ | .slaR _ | .sraR _ | .sllR _ | .srlR _ | .bitBR _ _
  | .resBR _ _ | .setBR _ _ | .neg _ | .imZero _ | .imOne _ | .imTwo _ | .nopEd _ | .incIdxHalf _ _
  | .decIdxHalf _ _ | .ldRIdxHalf _ _ _ | .ldIdxHalfR _ _ _ | .ldIdxHalfIdxHalf _ _ _
  | .addAIdxHalf _ _ | .adcAIdxHalf _ _ | .subIdxHalf _ _ | .sbcAIdxHalf _ _ | .andIdxHalf _ _
  | .xorIdxHalf _ _ | .orIdxHalf _ _ | .cpIdxHalf _ _ | .jpIndIdx _ => (8, 8)
  | .djnz _ => (13, 8)
  | .ldVectorA | .ldRefreshA | .ldAVector | .ldARefresh => (9, 9)
  | .ldDdNn _ _ | .ldIndHlN _ | .popQq _ | .ret | .jpCcNn _ _ | .jpNn _ | .incIdx _ | .decIdx _
  | .ldSpIdx _ => (10, 10)
  | .callCcNn _ _ => (17, 10)
  | .addHlSs _ | .incIndHl | .decIndHl | .outIndNA _ | .inAIndN _ | .pushQq _ | .rst _
  | .ldIdxHalfN _ _ _ => (11, 11)
  | .jr _ | .bitBIndHl _ | .inRIndC _ | .inIndC | .outIndCR _ | .outIndCZero => (12, 12)
  | .ldIndNnA _ | .ldAIndNn _ => (13, 13)
  | .retn _ | .reti | .ldIdxNn _ _ | .popIdx _ => (14, 14)
  | .rlcIndHl | .rrcIndHl | .rlIndHl | .rrIndHl | .slaIndHl | .sraIndHl | .sllIndHl | .srlIndHl
  | .resBIndHl _ | .setBIndHl _ | .sbcHlSs _ | .adcHlSs _ | .addIdxPp _ _ | .pushIdx _ => (15, 15)
  | .ldIndNnHl _ | .ldHlIndNn _ | .ldi | .cpi | .ini | .outi | .ldd | .cpd | .ind | .outd => (16, 16)
  | .ldir | .cpir | .inir | .otir | .lddr | .cpdr | .indr | .otdr => (21, 16)
  | .callNn _ => (17, 17)
  | .rrd | .rld => (18, 18)
  | .exIndSpHl | .ldIndIdxN _ _ _ | .ldRIndIdx _ _ _ | .ldIndIdxR _ _ _ | .addAIndIdx _ _
  | .adcAIndIdx _ _ | .subIndIdx _ _ | .sbcAIndIdx _ _ | .andIndIdx _ _ | .xorIndIdx _ _
  | .orIndIdx _ _ | .cpIndIdx _ _ => (19, 19)
  | .ldIndNnDd _ _ | .ldDdIndNn _ _ | .ldIndNnIdx _ _ | .ldIdxIndNn _ _ | .bitBIndIdx _ _ _ _ => (20, 20)
  | .incIndIdx _ _ | .decIndIdx _ _ | .exIndSpIdx _ | .rlcIndIdx _ _ | .rlcIndIdxR _ _ _
  | .rrcIndIdx _ _ | .rrcIndIdxR _ _ _ | .rlIndIdx _ _ | .rlIndIdxR _ _ _ | .rrIndIdx _ _
  | .rrIndIdxR _ _ _ | .slaIndIdx _ _ | .slaIndIdxR _ _ _ | .sraIndIdx _ _ | .sraIndIdxR _ _ _
  | .sllIndIdx _ _ | .sllIndIdxR _ _ _ | .srlIndIdx _ _ | .srlIndIdxR _ _ _ | .resBIndIdx _ _ _
  | .resBIndIdxR _ _ _ _ | .setBIndIdx _ _ _ | .setBIndIdxR _ _ _ _ => (23, 23)

/-- The T-states of an instruction run from a state (the Timing line of its rule). -/
def instrTStates (i : Instr) (s : State) : Nat :=
  if takesLonger i s then (tStatesColumn i).1 else (tStatesColumn i).2

/-! ## Binary-coded decimal -/

/-- The value of a byte read as two decimal digits. -/
def bcdValue (v : Byte) : Nat := v.toNat / 16 * 10 + v.toNat % 16

/-- Both digits are decimal. -/
def isBcd (v : Byte) : Bool := decide (v.toNat / 16 ≤ 9) && decide (v.toNat % 16 ≤ 9)

end Sys2Proof.Machine
end

