-- ==== Sys2Proof/WellFormed.lean ====
section
/-! DEFINITION. Which instructions have an encoding of their own: the constraints of the rows of
spec/opcode_table.json that the operand types do not already say (30_encoding.md R134). -/

namespace Sys2Proof

/-- `retn 1` would be RETI (48_jump_call_return.md R471: y ≠ 1); an unofficial ED slot is one of the
listed second bytes (44_arith8_control.md R357); `LD r,IDXh/IDXl` and `LD IDXh/IDXl,r` take r from
B, C, D, E, A (41_load8.md R238, R239); a prefix is ignored only before an opcode the DD/FD table
does not change (R358). -/
def Instr.wellFormed (i : Instr) : Bool :=
  match i with
  | .nop | .ldDdNn _ _ | .addHlSs _ | .ldIndBcA | .ldAIndBc | .ldIndDeA | .ldAIndDe
  | .ldIndNnHl _ | .ldHlIndNn _ | .ldIndNnA _ | .ldAIndNn _ | .incSs _ | .decSs _ | .incR _
  | .incIndHl | .decR _ | .decIndHl | .ldRN _ _ | .ldIndHlN _ | .rlca | .rrca | .rla | .rra
  | .daa | .cpl | .scf | .ccf | .exAfAf | .djnz _ | .jr _ | .jrCc _ _ | .halt | .ldRR _ _
  | .ldRIndHl _ | .ldIndHlR _ | .addAR _ | .addAIndHl | .addAN _ | .adcAR _ | .adcAIndHl
  | .adcAN _ | .subR _ | .subIndHl | .subN _ | .sbcAR _ | .sbcAIndHl | .sbcAN _ | .andR _
  | .andIndHl | .andN _ | .xorR _ | .xorIndHl | .xorN _ | .orR _ | .orIndHl | .orN _ | .cpR _
  | .cpIndHl | .cpN _ | .retCc _ | .popQq _ | .ret | .exx | .jpIndHl | .ldSpHl | .jpCcNn _ _
  | .jpNn _ | .outIndNA _ | .inAIndN _ | .exIndSpHl | .exDeHl | .di | .ei | .callCcNn _ _
  | .pushQq _ | .callNn _ | .rst _ | .rlcR _ | .rlcIndHl | .rrcR _ | .rrcIndHl | .rlR _
  | .rlIndHl | .rrR _ | .rrIndHl | .slaR _ | .slaIndHl | .sraR _ | .sraIndHl | .sllR _
  | .sllIndHl | .srlR _ | .srlIndHl | .bitBR _ _ | .bitBIndHl _ | .resBR _ _ | .resBIndHl _
  | .setBR _ _ | .setBIndHl _ | .inRIndC _ | .inIndC | .outIndCR _ | .outIndCZero | .sbcHlSs _
  | .adcHlSs _ | .ldIndNnDd _ _ | .ldDdIndNn _ _ | .neg _ | .reti | .imZero _ | .imOne _
  | .imTwo _ | .ldVectorA | .ldRefreshA | .ldAVector | .ldARefresh | .rrd | .rld | .ldi | .cpi
  | .ini | .outi | .ldd | .cpd | .ind | .outd | .ldir | .cpir | .inir | .otir | .lddr | .cpdr
  | .indr | .otdr | .addIdxPp _ _ | .ldIdxNn _ _ | .ldIndNnIdx _ _ | .ldIdxIndNn _ _
  | .incIdx _ | .decIdx _ | .incIdxHalf _ _ | .decIdxHalf _ _ | .ldIdxHalfN _ _ _
  | .incIndIdx _ _ | .decIndIdx _ _ | .ldIndIdxN _ _ _ | .ldRIndIdx _ _ _ | .ldIndIdxR _ _ _
  | .ldIdxHalfIdxHalf _ _ _ | .addAIdxHalf _ _ | .addAIndIdx _ _ | .adcAIdxHalf _ _
  | .adcAIndIdx _ _ | .subIdxHalf _ _ | .subIndIdx _ _ | .sbcAIdxHalf _ _ | .sbcAIndIdx _ _
  | .andIdxHalf _ _ | .andIndIdx _ _ | .xorIdxHalf _ _ | .xorIndIdx _ _ | .orIdxHalf _ _
  | .orIndIdx _ _ | .cpIdxHalf _ _ | .cpIndIdx _ _ | .popIdx _ | .exIndSpIdx _ | .pushIdx _
  | .jpIndIdx _ | .ldSpIdx _ | .rlcIndIdx _ _ | .rlcIndIdxR _ _ _ | .rrcIndIdx _ _
  | .rrcIndIdxR _ _ _ | .rlIndIdx _ _ | .rlIndIdxR _ _ _ | .rrIndIdx _ _ | .rrIndIdxR _ _ _
  | .slaIndIdx _ _ | .slaIndIdxR _ _ _ | .sraIndIdx _ _ | .sraIndIdxR _ _ _ | .sllIndIdx _ _
  | .sllIndIdxR _ _ _ | .srlIndIdx _ _ | .srlIndIdxR _ _ _ | .bitBIndIdx _ _ _ _
  | .resBIndIdx _ _ _ | .resBIndIdxR _ _ _ _ | .setBIndIdx _ _ _ | .setBIndIdxR _ _ _ _ => true
  | .retn v => decide (v ≠ 1)
  | .nopEd v => unofficialEd v
  | .ldRIdxHalf _ r _ => decide (r ≠ .h ∧ r ≠ .l)
  | .ldIdxHalfR _ _ r => decide (r ≠ .h ∧ r ≠ .l)
  | .ignoredIndexPrefix _ op => !indexAffected op

end Sys2Proof
end

