-- ==== Sys2Proof/Certificates/Slice0/Obligations.lean ====
section
/-! DEFINITION. The statements for the provers. Per-instruction statements are about `exec`, whose state
is the one after the prefix and opcode bytes are fetched; `StepRunsTheDecodedInstruction` and
`StepFollowsTheAlgorithm` carry them to `step`. The terms are those of Sys2Proof/Safety.lean. What a
memory read answers is `State.memAnswer`: any byte the host has named, else what its memory holds
(20_memory.md R82, R90; logs 3 and 11); every statement holds whatever the host names. -/

open Sys2Proof Sys2Proof.Machine

/-! ## Encoding -/

/-- Words written out from the bit patterns of spec/opcode_table.json, one or more per table, decode to
the instruction they stand for. -/
def Obligations.WordsDecodeAsTheTablesSay : Prop :=
  decodeBytes 0x00 0x00 0x00 0x00 = .nop
  ∧ decodeBytes 0x21 0x34 0x12 0x00 = .ldDdNn .hl 0x1234
  ∧ decodeBytes 0x78 0x00 0x00 0x00 = .ldRR .a .b
  ∧ decodeBytes 0x76 0x00 0x00 0x00 = .halt
  ∧ decodeBytes 0xFE 0x28 0x00 0x00 = .cpN 0x28
  ∧ decodeBytes 0x38 0x80 0x00 0x00 = .jrCc .c 0x80
  ∧ decodeBytes 0xFF 0x00 0x00 0x00 = .rst 7
  ∧ decodeBytes 0xCB 0x7E 0x00 0x00 = .bitBIndHl 7
  ∧ decodeBytes 0xED 0x7B 0x34 0x12 = .ldDdIndNn .sp 0x1234
  ∧ decodeBytes 0xED 0x4D 0x00 0x00 = .reti
  ∧ decodeBytes 0xED 0xB0 0x00 0x00 = .ldir
  ∧ decodeBytes 0xED 0x77 0x00 0x00 = .nopEd 0x77
  ∧ decodeBytes 0xDD 0x66 0xFF 0x00 = .ldRIndIdx .ix .h 0xFF
  ∧ decodeBytes 0xFD 0x36 0x05 0x7F = .ldIndIdxN .iy 0x05 0x7F
  ∧ decodeBytes 0xDD 0xEB 0x00 0x00 = .ignoredIndexPrefix .ix 0xEB
  ∧ decodeBytes 0xFD 0xCB 0x02 0xA4 = .resBIndIdxR .iy 0x02 4 .h

/-- Decoding the encoding of a well-formed instruction, whatever bytes follow it, gives the instruction
back and leaves the bytes after it (an ignored index prefix is one byte long: the byte it was
looked at before is left too). -/
def Obligations.DecodeInvertsEncode : Prop :=
  ∀ (i : Instr) (rest : List Byte), i.wellFormed = true →
    decode (encode i ++ rest) = .ok (i, (encode i).drop i.length ++ rest)

/-- Every four bytes begin with exactly one instruction: the one decoded is well-formed, is one to four
bytes long, and its encoding is what the bytes begin with; and no other well-formed instruction's
encoding is. -/
def Obligations.EncodeInvertsDecode : Prop :=
  ∀ b0 b1 b2 b3 : Byte,
    (decodeBytes b0 b1 b2 b3).wellFormed = true
    ∧ encode (decodeBytes b0 b1 b2 b3) <+: [b0, b1, b2, b3]
    ∧ 1 ≤ (decodeBytes b0 b1 b2 b3).length ∧ (decodeBytes b0 b1 b2 b3).length ≤ 4
    ∧ ∀ i : Instr, i.wellFormed = true → encode i <+: [b0, b1, b2, b3] → i = decodeBytes b0 b1 b2 b3

/-! ## The step -/

/-- When no signal is serviced, the core is not halted and no prefix is pending, and the bytes at PC are
the encoding of a well-formed instruction, the step is `exec` of that instruction, on the state
after INT_BLOCKED is cleared and the instruction's prefix and opcode bytes are fetched; after an
ignored index prefix the instruction behind it runs in the same step; and with a prefix pending the
same holds of the instruction that begins with it. -/
def Obligations.StepRunsTheDecodedInstruction : Prop :=
  ∀ (s : State) (i : Instr), s.noSignal = true → s.halted = false → i.wellFormed = true →
    (s.pendingIndex = none ∧ s.BytesAtPc (encode i)
      ∨ ∃ x, s.pendingIndex = some x ∧ encode i = x.prefixByte :: (encode i).tail
          ∧ s.BytesAtPc (encode i).tail) →
    let s1 := { s with intBlocked := false }.fetchInstr i
    (goesOn i = false → step s = exec i s1)
    ∧ (goesOn i = true → step s = exec s1.nextInstr (s1.fetchInstr s1.nextInstr))

/-- `step` is the algorithm of 30_encoding.md R119: the signal check, the halted cycle, the fetch with
its loop over index prefixes, and the dispatch to the five tables. It is so as R119 prints it wherever
INT_BLOCKED goes with a pending prefix, as every run leaves it; and with a prefix pending INT_BLOCKED
counts as set, since then no INT is serviced (10_state.md R46, 90_conflicts.md C4). -/
def Obligations.StepFollowsTheAlgorithm : Prop :=
  ∀ s : State,
    (s.pendingIndex = none ∨ s.intBlocked = true → step s = stepAlgorithm s)
    ∧ (s.pendingIndex ≠ none → step s = stepAlgorithm { s with intBlocked := true })

/-- A requested RESET is serviced before anything else, as R538 says. What R538 does not write (A, F, B,
C, D, E, H, L, the shadow set, IX, IY, SP, MEMPTR) is unspecified after it, and nothing is said of
it here. -/
def Obligations.ResetServiceEffect : Prop :=
  ∀ s : State, s.resetRequested = true → ∃ t, step s = .next t
    ∧ t.pc = 0x0000 ∧ t.i = 0x00 ∧ t.r = 0x00 ∧ t.im = .im0 ∧ t.iff1 = false ∧ t.iff2 = false
    ∧ t.halted = false ∧ t.intBlocked = false ∧ t.pendingIndex = none
    ∧ t.tStates = s.tStates + 3 ∧ t.bus = .ackReset :: s.bus
    ∧ t.mem = s.mem ∧ t.memIn = s.memIn ∧ t.portIn = s.portIn ∧ Part.inputs.same s t

/-- The NMI service (R539): the acknowledge and the two stack writes are its only callbacks, it costs 11
T-states, and it changes nothing but what is listed. -/
def Obligations.NmiServiceEffect : Prop :=
  ∀ s : State, s.takesNmi = true → ∃ t, step s = .next t
    ∧ t.pc = 0x0066 ∧ t.memptr = 0x0066 ∧ t.iff2 = s.iff1 ∧ t.iff1 = false ∧ t.intBlocked = false
    ∧ t.halted = false ∧ t.r = refreshInc s.r ∧ Pushed s.returnAddress s t
    ∧ t.tStates = s.tStates + 11 ∧ t.memIn = s.memIn
    ∧ t.bus = (pushCalls s s.returnAddress).reverse ++ .ackNmi :: s.bus
    ∧ Frame [.pc, .memptr, .iff1, .iff2, .intBlocked, .halted, .refresh, .sp] [s.sp - 1, s.sp - 2] s t

/-- The INT service in interrupt modes 0 and 1 (R540, R541, R542): RST 0x38, 13 T-states; DataBus has no
effect. -/
def Obligations.IntServiceModes0And1Effect : Prop :=
  ∀ s : State, s.takesInt = true → s.im ≠ .im2 → ∃ t, step s = .next t
    ∧ t.pc = 0x0038 ∧ t.memptr = 0x0038 ∧ t.iff1 = false ∧ t.iff2 = false ∧ t.halted = false
    ∧ t.r = refreshInc s.r ∧ Pushed s.returnAddress s t ∧ t.tStates = s.tStates + 13
    ∧ t.memIn = s.memIn
    ∧ t.bus = (pushCalls s s.returnAddress).reverse ++ .ackInt :: s.bus
    ∧ Frame [.pc, .memptr, .iff1, .iff2, .halted, .refresh, .sp] [s.sp - 1, s.sp - 2] s t

/-- The INT service in interrupt mode 2 (R540, R543): after the push, the vector is the word that two
reads at I : DataBus answer, and the service takes 19 T-states. Two clauses are the model's choice:
DataBus (R48, R545) is the byte it held at the start of the step, though the acknowledge hook comes
before it is read (log 8), and where the host names no answer the vector is read from memory as the
push left it (log 3). -/
def Obligations.IntServiceMode2Effect : Prop :=
  ∀ s : State, s.takesInt = true → s.im = .im2 → ∃ t, step s = .next t
    ∧ t.pc = { t with memIn := s.memIn }.wordAnswer 0 (join s.i s.dataBus)
    ∧ t.memptr = t.pc ∧ t.iff1 = false ∧ t.iff2 = false ∧ t.halted = false ∧ t.r = refreshInc s.r ∧ Pushed s.returnAddress s t
    ∧ t.tStates = s.tStates + 19 ∧ t.memIn = s.memIn.drop 2
    ∧ t.bus = [.readMem (join s.i s.dataBus + 1), .readMem (join s.i s.dataBus)]
        ++ (pushCalls s s.returnAddress).reverse ++ .ackInt :: s.bus
    ∧ Frame [.pc, .memptr, .iff1, .iff2, .halted, .refresh, .sp] [s.sp - 1, s.sp - 2] s t

/-- While HALTED with no signal serviced, a step is one fetch-shaped cycle with PC held; an INT that is
not eligible does not wake the core. -/
def Obligations.HaltedCycleEffect : Prop :=
  ∀ s : State, s.halted = true → s.noSignal = true → ∃ t, step s = .next t
    ∧ t.halted = true ∧ t.r = refreshInc s.r ∧ t.intBlocked = false ∧ Issued [.readFetch s.pc] s t
    ∧ Frame [.refresh, .intBlocked] [] s t

/-- Each acknowledge hook fires exactly once in a step that services its signal, as the first callback of
the step, and never in any other step. -/
def Obligations.AcknowledgeOncePerService : Prop :=
  ∀ s : State, ∃ t, step s = .next t
    ∧ t.timesIssued .ackReset = s.timesIssued .ackReset + s.takesReset.toNat
    ∧ t.timesIssued .ackNmi = s.timesIssued .ackNmi + s.takesNmi.toNat
    ∧ t.timesIssued .ackInt = s.timesIssued .ackInt + s.takesInt.toNat
    ∧ (s.takesReset = true → .ackReset :: s.bus <:+ t.bus)
    ∧ (s.takesNmi = true → .ackNmi :: s.bus <:+ t.bus)
    ∧ (s.takesInt = true → .ackInt :: s.bus <:+ t.bus)

/-- How every step changes IFF1, IFF2, INT_BLOCKED and IM: the table of 60_exceptions.md R552, row by
row. -/
def Obligations.InterruptStateTable : Prop :=
  ∀ s : State, ∃ t, step s = .next t
    ∧ (t.iff1, t.iff2, t.intBlocked, t.im) =
        if s.takesReset then (false, false, false, .im0)
        else if s.takesNmi then (false, s.iff1, false, s.im)
        else if s.takesInt then (false, false, false, s.im)
        else if s.halted then (s.iff1, s.iff2, false, s.im)
        else interruptStateAfter s.runsInstr.1 s

/-- A step ends in a next state from every state: no opcode faults, and none is refused. -/
def Obligations.StepAlwaysAnswersNext : Prop :=
  (∀ s : State, ∃ t, step s = .next t) ∧ ∀ (i : Instr) (s : State), ∃ t, exec i s = .next t

/-- The invariant holds at reset. -/
def Obligations.InvariantHoldsAtReset : Prop := Inv State.reset

/-- Every step keeps the invariant. -/
def Obligations.EveryStepKeepsTheInvariant : Prop :=
  ∀ s t : State, Inv s → step s = .next t → Inv t

/-- The whole-machine rules on who writes what: a step that services no RESET changes I only by `LD I,A`
(to A), bit 7 of R only by `LD R,A`, AF' only by `EX AF,AF'`, and BC', DE', HL' only by `EXX`, each in
a step that runs that instruction (it services no signal and is no halted cycle); and no step at all
writes the host's inputs. -/
def Obligations.RegistersWithOneWriter : Prop :=
  ∀ s : State,
    let runs := fun i : Instr => s.noSignal = true ∧ s.halted = false ∧ s.runsInstr.1 = i
    ∃ t, step s = .next t ∧ Part.inputs.same s t
    ∧ (s.takesReset = false →
        (t.i = s.i ∨ runs .ldVectorA ∧ t.i = s.a)
        ∧ (t.r.getLsbD 7 = s.r.getLsbD 7 ∨ runs .ldRefreshA ∧ t.r = s.a)
        ∧ (t.afAlt = s.afAlt ∨ runs .exAfAf ∧ t.afAlt = s.af)
        ∧ (t.bcAlt = s.bcAlt ∧ t.deAlt = s.deAlt ∧ t.hlAlt = s.hlAlt
            ∨ runs .exx ∧ t.bcAlt = s.bc ∧ t.deAlt = s.de ∧ t.hlAlt = s.hl))

/-- The Operation of every instruction only adds to the callback log, T grows by exactly the cost of the
callbacks it adds, and it issues no `NoRequestPort`, no acknowledge, and no opcode fetch but the one
of a redundant index prefix. -/
def Obligations.EveryInstructionPaysForItsCallbacks : Prop :=
  ∀ (i : Instr) (s : State), ∃ t calls, exec i s = .next t ∧ Issued calls s t
    ∧ (∀ a, .noRequestPort a ∉ calls) ∧ .ackReset ∉ calls ∧ .ackNmi ∉ calls ∧ .ackInt ∉ calls
    ∧ (∀ a, .readFetch a ∈ calls → ∃ x op, i = .ignoredIndexPrefix x op ∧ isIndexPrefix op = true)

/-- The T-states of a step that runs a well-formed instruction with no prefix pending are those of the
instruction's row in spec/opcode_table.json; an ignored index prefix adds its own 4 to those of the
instruction behind it, and a redundant pair of prefixes takes 8. -/
def Obligations.StepTakesTheTimeOfItsRow : Prop :=
  ∀ s : State, s.noSignal = true → s.halted = false → s.pendingIndex = none → ∃ t, step s = .next t
    ∧ t.tStates = s.tStates +
        match s.nextInstr with
        | .ignoredIndexPrefix _ op =>
          if isIndexPrefix op then 8 else 4 + instrTStates s.runsInstr.1 s.runsInstr.2
        | i => instrTStates i s.runsInstr.2

/-- A step that runs an instruction other than an ignored index prefix counts its M1 cycles (two for the
prefixed tables, else one) in R's low seven bits modulo 128, unless it is `LD R,A`; and if it is no
jump, call, return, restart, HALT or repeating block instruction, it leaves PC after its last
byte. -/
def Obligations.StepAdvancesPcAndR : Prop :=
  ∀ s : State, s.noSignal = true → s.halted = false → s.pendingIndex = none →
    (∀ x op, s.nextInstr ≠ .ignoredIndexPrefix x op) → ∃ t, step s = .next t
    ∧ (setsPc s.nextInstr = false → t.pc = s.pc + BitVec.ofNat 16 s.nextInstr.length)
    ∧ (s.nextInstr ≠ .ldRefreshA →
        t.r.toNat % 128 = (s.r.toNat +
          if s.streamByte 0 = 0xCB ∨ s.streamByte 0 = 0xED ∨ isIndexPrefix (s.streamByte 0) = true
          then 2 else 1) % 128)

/-- A redundant index prefix (R121): with no prefix pending and two index prefixes at PC the step fetches
both and ends, PENDING_INDEX the second one's register and INT_BLOCKED set; with a prefix pending
and one more at PC it fetches that one and ends likewise. The next step then takes neither INT nor
NMI. -/
def Obligations.RedundantPrefixEndsTheStep : Prop :=
  ∀ s : State, s.noSignal = true → s.halted = false → isIndexPrefix (s.streamByte 0) = true →
    (s.pendingIndex = none → isIndexPrefix (s.streamByte 1) = true → ∃ t, step s = .next t
        ∧ Issued [.readFetch s.pc, .readFetch (s.pc + 1)] s t ∧ t.pc = s.pc + 2
        ∧ t.r = refreshInc (refreshInc s.r) ∧ t.intBlocked = true
        ∧ t.pendingIndex = some (prefixIdx (s.streamByte 1))
        ∧ t.takesNmi = false ∧ t.takesInt = false
        ∧ Frame [.pc, .refresh, .intBlocked, .pendingIndex] [] s t)
    ∧ (s.pendingIndex ≠ none → ∃ t, step s = .next t
        ∧ Issued [.readFetch s.pc] s t ∧ t.pc = s.pc + 1 ∧ t.r = refreshInc s.r
        ∧ t.intBlocked = true ∧ t.pendingIndex = some (prefixIdx (s.streamByte 0))
        ∧ t.takesNmi = false ∧ t.takesInt = false
        ∧ Frame [.pc, .refresh, .intBlocked, .pendingIndex] [] s t)

/-! ## 8-bit loads -/

/-- The loads between registers and of an immediate, the index halves included. -/
def Obligations.RegisterLoads : Prop :=
  ∀ s : State,
    (∀ r r', Completes (.ldRR r r') s [.reg r] [] [] fun t => t.reg r = s.reg r')
    ∧ (∀ r n, Completes (.ldRN r n) s [.reg r, .pc] [] [.readMem s.pc] fun t =>
        t.reg r = n ∧ t.pc = s.pc + 1)
    ∧ (∀ x r h, Completes (.ldRIdxHalf x r h) s [.reg r] [] [] fun t => t.reg r = s.half x h)
    ∧ (∀ x h r, Completes (.ldIdxHalfR x h r) s [.half x h] [] [] fun t => t.half x h = s.reg r)
    ∧ (∀ x h h', Completes (.ldIdxHalfIdxHalf x h h') s [.half x h] [] [] fun t =>
        t.half x h = s.half x h')
    ∧ (∀ x h n, Completes (.ldIdxHalfN x h n) s [.half x h, .pc] [] [.readMem s.pc] fun t =>
        t.half x h = n ∧ t.pc = s.pc + 1)

/-- The loads of a register from memory. -/
def Obligations.MemoryLoads : Prop :=
  ∀ s : State,
    (∀ r, Completes (.ldRIndHl r) s [.reg r] [] [.readMem s.hl] fun t => t.reg r = s.memAnswer 0 s.hl)
    ∧ (∀ x r d, Completes (.ldRIndIdx x r d) s [.reg r, .memptr, .pc] []
        (dispCalls s ++ [.readMem (s.idxAddr x d)]) fun t =>
        t.reg r = s.memAnswer 1 (s.idxAddr x d) ∧ t.memptr = s.idxAddr x d ∧ t.pc = s.pc + 1)
    ∧ (Completes .ldAIndBc s [.reg .a, .memptr] [] [.readMem s.bc] fun t =>
        t.a = s.memAnswer 0 s.bc ∧ t.memptr = s.bc + 1)
    ∧ (Completes .ldAIndDe s [.reg .a, .memptr] [] [.readMem s.de] fun t =>
        t.a = s.memAnswer 0 s.de ∧ t.memptr = s.de + 1)
    ∧ (∀ nn, Completes (.ldAIndNn nn) s [.reg .a, .memptr, .pc] [] (nnCalls s ++ [.readMem nn])
        fun t => t.a = s.memAnswer 2 nn ∧ t.memptr = nn + 1 ∧ t.pc = s.pc + 2)

/-- The stores of a register or an immediate to memory. -/
def Obligations.MemoryStores : Prop :=
  ∀ s : State,
    (∀ r, Completes (.ldIndHlR r) s [] [s.hl] [.writeMem s.hl (s.reg r)] fun t =>
        t.byteAt s.hl = s.reg r)
    ∧ (∀ n, Completes (.ldIndHlN n) s [.pc] [s.hl] [.readMem s.pc, .writeMem s.hl n] fun t =>
        t.byteAt s.hl = n ∧ t.pc = s.pc + 1)
    ∧ (∀ x d r, Completes (.ldIndIdxR x d r) s [.memptr, .pc] [s.idxAddr x d]
        (dispCalls s ++ [.writeMem (s.idxAddr x d) (s.reg r)]) fun t =>
        t.byteAt (s.idxAddr x d) = s.reg r ∧ t.memptr = s.idxAddr x d ∧ t.pc = s.pc + 1)
    ∧ (∀ x d n, Completes (.ldIndIdxN x d n) s [.memptr, .pc] [s.idxAddr x d]
        (nnCalls s ++ List.replicate 2 (.noRequestMem (s.pc + 1)) ++ [.writeMem (s.idxAddr x d) n])
        fun t => t.byteAt (s.idxAddr x d) = n ∧ t.memptr = s.idxAddr x d ∧ t.pc = s.pc + 2)
    ∧ (Completes .ldIndBcA s [.memptr] [s.bc] [.writeMem s.bc s.a] fun t =>
        t.byteAt s.bc = s.a ∧ t.memptr = join s.a (loByte (s.bc + 1)))
    ∧ (Completes .ldIndDeA s [.memptr] [s.de] [.writeMem s.de s.a] fun t =>
        t.byteAt s.de = s.a ∧ t.memptr = join s.a (loByte (s.de + 1)))
    ∧ (∀ nn, Completes (.ldIndNnA nn) s [.memptr, .pc] [nn] (nnCalls s ++ [.writeMem nn s.a]) fun t =>
        t.byteAt nn = s.a ∧ t.memptr = join s.a (loByte (nn + 1)) ∧ t.pc = s.pc + 2)

/-- The four loads between A and I, R, with the flags of `LD A,I` and `LD A,R`: P/V is IFF2. -/
def Obligations.LoadsOfIAndR : Prop :=
  ∀ s : State,
    let flags := fun v : Byte =>
      fbyte (v.getLsbD 7) (v == 0) (v.getLsbD 5) false (v.getLsbD 3) s.iff2 false (flagC s.f)
    let idle : List BusCall := [.noRequestMem (join s.i s.r)]
    (Completes .ldAVector s [.reg .a, .f] [] idle fun t => t.a = s.i ∧ t.f = flags s.i)
    ∧ (Completes .ldARefresh s [.reg .a, .f] [] idle fun t => t.a = s.r ∧ t.f = flags s.r)
    ∧ (Completes .ldVectorA s [.vector] [] idle fun t => t.i = s.a)
    ∧ (Completes .ldRefreshA s [.refresh] [] idle fun t => t.r = s.a)

/-! ## 16-bit loads -/

/-- The loads of a register pair, an index register or SP: from an immediate, from a pair, and from two
bytes of memory with the low byte first. -/
def Obligations.PairLoads : Prop :=
  ∀ s : State,
    (∀ dd nn, Completes (.ldDdNn dd nn) s (.pc :: pairSpParts dd) [] (nnCalls s) fun t =>
        t.pairSp dd = nn ∧ t.pc = s.pc + 2)
    ∧ (∀ x nn, Completes (.ldIdxNn x nn) s (.pc :: idxParts x) [] (nnCalls s) fun t =>
        t.idx x = nn ∧ t.pc = s.pc + 2)
    ∧ (Completes .ldSpHl s [.sp] [] (List.replicate 2 (.noRequestMem (join s.i s.r))) fun t =>
        t.sp = s.hl)
    ∧ (∀ x, Completes (.ldSpIdx x) s [.sp] [] (List.replicate 2 (.noRequestMem (join s.i s.r)))
        fun t => t.sp = s.idx x)
    ∧ (∀ nn, Completes (.ldHlIndNn nn) s [.reg .h, .reg .l, .memptr, .pc] []
        (nnCalls s ++ [.readMem nn, .readMem (nn + 1)]) fun t =>
        t.hl = s.wordAnswer 2 nn ∧ t.memptr = nn + 1 ∧ t.pc = s.pc + 2)
    ∧ (∀ dd nn, Completes (.ldDdIndNn dd nn) s (.memptr :: .pc :: pairSpParts dd) []
        (nnCalls s ++ [.readMem nn, .readMem (nn + 1)]) fun t =>
        t.pairSp dd = s.wordAnswer 2 nn ∧ t.memptr = nn + 1 ∧ t.pc = s.pc + 2)
    ∧ (∀ x nn, Completes (.ldIdxIndNn x nn) s (.memptr :: .pc :: idxParts x) []
        (nnCalls s ++ [.readMem nn, .readMem (nn + 1)]) fun t =>
        t.idx x = s.wordAnswer 2 nn ∧ t.memptr = nn + 1 ∧ t.pc = s.pc + 2)

/-- The stores of a register pair, an index register or SP to two bytes of memory: low byte at nn, high
byte at nn + 1, which wraps. -/
def Obligations.PairStores : Prop :=
  ∀ s : State,
    let stores := fun (i : Instr) (nn v : Word) =>
      Completes i s [.memptr, .pc] [nn, nn + 1]
        (nnCalls s ++ [.writeMem nn (loByte v), .writeMem (nn + 1) (hiByte v)]) fun t =>
        t.byteAt nn = loByte v ∧ t.byteAt (nn + 1) = hiByte v ∧ t.memptr = nn + 1 ∧ t.pc = s.pc + 2
    (∀ nn, stores (.ldIndNnHl nn) nn s.hl)
    ∧ (∀ dd nn, stores (.ldIndNnDd dd nn) nn (s.pairSp dd))
    ∧ (∀ x nn, stores (.ldIndNnIdx x nn) nn (s.idx x))

/-- PUSH and POP: a push stores the high byte at SP - 1 and the low byte at SP - 2; a pop reads the low
byte at SP and the high byte at SP + 1. `POP AF` loads all eight bits of F. -/
def Obligations.PushesAndPops : Prop :=
  ∀ s : State,
    let pushes := fun (i : Instr) (v : Word) =>
      Completes i s [.sp] [s.sp - 1, s.sp - 2] (.noRequestMem (join s.i s.r) :: pushCalls s v)
        (Pushed v s)
    let pops : List BusCall := [.readMem s.sp, .readMem (s.sp + 1)]
    (∀ qq, pushes (.pushQq qq) (s.pairAf qq))
    ∧ (∀ x, pushes (.pushIdx x) (s.idx x))
    ∧ (∀ qq, Completes (.popQq qq) s (.sp :: pairAfParts qq) [] pops fun t =>
        t.pairAf qq = s.wordAnswer 0 s.sp ∧ t.sp = s.sp + 2)
    ∧ (∀ x, Completes (.popIdx x) s (.sp :: idxParts x) [] pops fun t =>
        t.idx x = s.wordAnswer 0 s.sp ∧ t.sp = s.sp + 2)

/-- A PUSH followed by a POP of any pair moves the pushed value there and restores SP, wherever SP
points; the same of CALL and RET for the return address. That the bytes written are read back is
20_memory.md R90 for a host whose memory keeps them: the model's choice is plain RAM whenever the
host names no other answer, as assumed here (log 3). -/
def Obligations.PopUndoesPush : Prop :=
  ∀ s : State, s.memIn = [] →
    (∀ p q : PairAf, ∃ t u, exec (.pushQq p) s = .next t ∧ exec (.popQq q) t = .next u
        ∧ u.pairAf q = s.pairAf p ∧ u.sp = s.sp)
    ∧ (∀ nn : Word, ∃ t u, exec (.callNn nn) s = .next t ∧ t.pc = nn ∧ exec .ret t = .next u
        ∧ u.pc = s.pc + 2 ∧ u.sp = s.sp)

/-! ## Exchanges and block instructions -/

/-- The exchanges: of DE and HL, of the shadow set, and of HL or an index register with the word at
SP. -/
def Obligations.Exchanges : Prop :=
  ∀ s : State,
    let top := fun v : Word =>
      ([.readMem s.sp, .readMem (s.sp + 1), .noRequestMem (s.sp + 1),
        .writeMem (s.sp + 1) (hiByte v), .writeMem s.sp (loByte v),
        .noRequestMem s.sp, .noRequestMem s.sp] : List BusCall)
    (Completes .exDeHl s [.reg .d, .reg .e, .reg .h, .reg .l] [] [] fun t => t.de = s.hl ∧ t.hl = s.de)
    ∧ (Completes .exAfAf s [.reg .a, .f, .afAlt] [] [] fun t => t.af = s.afAlt ∧ t.afAlt = s.af)
    ∧ (Completes .exx s [.reg .b, .reg .c, .reg .d, .reg .e, .reg .h, .reg .l, .bcAlt, .deAlt, .hlAlt]
        [] [] fun t => t.bc = s.bcAlt ∧ t.de = s.deAlt ∧ t.hl = s.hlAlt
          ∧ t.bcAlt = s.bc ∧ t.deAlt = s.de ∧ t.hlAlt = s.hl)
    ∧ (Completes .exIndSpHl s [.reg .h, .reg .l, .memptr] [s.sp, s.sp + 1] (top s.hl) fun t =>
        t.hl = s.wordAnswer 0 s.sp ∧ t.memptr = s.wordAnswer 0 s.sp ∧ t.wordAt s.sp = s.hl)
    ∧ (∀ x, Completes (.exIndSpIdx x) s (.memptr :: idxParts x) [s.sp, s.sp + 1] (top (s.idx x))
        fun t => t.idx x = s.wordAnswer 0 s.sp ∧ t.memptr = s.wordAnswer 0 s.sp ∧ t.wordAt s.sp = s.idx x)

/-- The block transfers. `step` is 1 or -1; a repeating one, while BC is not 0 after the decrement, sets
PC back to its ED byte and takes five more T-states. -/
def Obligations.BlockTransfers : Prop :=
  ∀ s : State,
    let v := s.memAnswer 0 s.hl
    let k := v + s.a
    let more := decide (s.bc ≠ 1)
    let calls : List BusCall := [.readMem s.hl, .writeMem s.de v, .noRequestMem s.de, .noRequestMem s.de]
    let parts : List Part := [.reg .b, .reg .c, .reg .d, .reg .e, .reg .h, .reg .l, .f]
    let moved := fun (delta : Word) (t : State) =>
      t.byteAt s.de = v ∧ t.hl = s.hl + delta ∧ t.de = s.de + delta ∧ t.bc = s.bc - 1
        ∧ t.f = fbyte (flagS s.f) (flagZ s.f) (k.getLsbD 1) false (k.getLsbD 3) more false (flagC s.f)
    let once := fun (i : Instr) (delta : Word) => Completes i s parts [s.de] calls (moved delta)
    let again := fun (i : Instr) (delta : Word) =>
      if s.bc = 1 then once i delta
      else Completes i s (.pc :: .memptr :: parts) [s.de]
        (calls ++ List.replicate 5 (.noRequestMem s.de)) fun t =>
        moved delta t ∧ t.pc = s.pc - 2 ∧ t.memptr = s.pc - 1
    once .ldi 1 ∧ once .ldd (-1) ∧ again .ldir 1 ∧ again .lddr (-1)

/-- The block searches. A repeating one goes on while BC is not 0 after the decrement and the byte is not
A. -/
def Obligations.BlockSearches : Prop :=
  ∀ s : State,
    let v := s.memAnswer 0 s.hl
    let half := decide (s.a.toNat % 16 < v.toNat % 16)
    let k := s.a - v - (if half then 1 else 0)
    let calls : List BusCall := .readMem s.hl :: List.replicate 5 (.noRequestMem s.hl)
    let parts : List Part := [.reg .b, .reg .c, .reg .h, .reg .l, .f, .memptr]
    let compared := fun (delta : Word) (t : State) =>
      t.hl = s.hl + delta ∧ t.bc = s.bc - 1
        ∧ t.f = fbyte ((s.a - v).getLsbD 7) (s.a == v) (k.getLsbD 1) half (k.getLsbD 3)
            (decide (s.bc ≠ 1)) true (flagC s.f)
    let once := fun (i : Instr) (delta : Word) => Completes i s parts [] calls fun t =>
      compared delta t ∧ t.memptr = s.memptr + delta
    let again := fun (i : Instr) (delta : Word) =>
      if s.bc = 1 ∨ s.a = v then once i delta
      else Completes i s (.pc :: parts) [] (calls ++ List.replicate 5 (.noRequestMem s.hl)) fun t =>
        compared delta t ∧ t.pc = s.pc - 2 ∧ t.memptr = s.pc - 1
    once .cpi 1 ∧ once .cpd (-1) ∧ again .cpir 1 ∧ again .cpdr (-1)

/-! ## 8-bit arithmetic and logic, and CPU control -/

/-- The eight ALU operations on a register, an immediate and an index half. -/
def Obligations.AluOnRegisters : Prop :=
  ∀ (s : State) (op : AluOp),
    let result := fun (v : Byte) (t : State) => (t.a, t.f) = aluBits op s.a v (flagC s.f)
    (∀ r, Completes (aluR op r) s [.reg .a, .f] [] [] (result (s.reg r)))
    ∧ (∀ n, Completes (aluN op n) s [.reg .a, .f, .pc] [] [.readMem s.pc] fun t =>
        result n t ∧ t.pc = s.pc + 1)
    ∧ (∀ x h, Completes (aluIdxHalf op x h) s [.reg .a, .f] [] [] (result (s.half x h)))

/-- The eight ALU operations on a byte of memory. -/
def Obligations.AluOnMemory : Prop :=
  ∀ (s : State) (op : AluOp),
    let result := fun (v : Byte) (t : State) => (t.a, t.f) = aluBits op s.a v (flagC s.f)
    (Completes (aluIndHl op) s [.reg .a, .f] [] [.readMem s.hl] (result (s.memAnswer 0 s.hl)))
    ∧ (∀ x d, Completes (aluIndIdx op x d) s [.reg .a, .f, .memptr, .pc] []
        (dispCalls s ++ [.readMem (s.idxAddr x d)]) fun t =>
        result (s.memAnswer 1 (s.idxAddr x d)) t ∧ t.memptr = s.idxAddr x d ∧ t.pc = s.pc + 1)

/-- INC and DEC of a register and of an index half; C is kept. -/
def Obligations.IncDecRegisters : Prop :=
  ∀ s : State,
    (∀ r, Completes (.incR r) s [.reg r, .f] [] [] fun t => (t.reg r, t.f) = incBits (s.reg r) s.f)
    ∧ (∀ r, Completes (.decR r) s [.reg r, .f] [] [] fun t => (t.reg r, t.f) = decBits (s.reg r) s.f)
    ∧ (∀ x h, Completes (.incIdxHalf x h) s [.half x h, .f] [] [] fun t =>
        (t.half x h, t.f) = incBits (s.half x h) s.f)
    ∧ (∀ x h, Completes (.decIdxHalf x h) s [.half x h, .f] [] [] fun t =>
        (t.half x h, t.f) = decBits (s.half x h) s.f)

/-- INC and DEC of a byte of memory: read, one idle T-state, written back. -/
def Obligations.IncDecMemory : Prop :=
  ∀ s : State,
    let atHl := fun (i : Instr) (op : Byte → Byte → Byte × Byte) =>
      let w := op (s.memAnswer 0 s.hl) s.f
      Completes i s [.f] [s.hl] [.readMem s.hl, .noRequestMem s.hl, .writeMem s.hl w.1] fun t =>
        t.byteAt s.hl = w.1 ∧ t.f = w.2
    let atIdx := fun (i : Instr) (ea : Word) (op : Byte → Byte → Byte × Byte) =>
      let w := op (s.memAnswer 1 ea) s.f
      Completes i s [.f, .memptr, .pc] [ea]
        (dispCalls s ++ [.readMem ea, .noRequestMem ea, .writeMem ea w.1]) fun t =>
        t.byteAt ea = w.1 ∧ t.f = w.2 ∧ t.memptr = ea ∧ t.pc = s.pc + 1
    atHl .incIndHl incBits ∧ atHl .decIndHl decBits
    ∧ (∀ x d, atIdx (.incIndIdx x d) (s.idxAddr x d) incBits)
    ∧ (∀ x d, atIdx (.decIndIdx x d) (s.idxAddr x d) decBits)

/-- The operations on A and F alone: DAA, CPL, NEG with every alias, CCF and SCF. -/
def Obligations.AccumulatorAndFlagOperations : Prop :=
  ∀ s : State,
    (Completes .daa s [.reg .a, .f] [] [] fun t => (t.a, t.f) = daaBits s.a s.f)
    ∧ (Completes .cpl s [.reg .a, .f] [] [] fun t => t.a = ~~~s.a
        ∧ t.f = fbyte (flagS s.f) (flagZ s.f) (t.a.getLsbD 5) true (t.a.getLsbD 3) (flagPV s.f) true
            (flagC s.f))
    ∧ (∀ v, Completes (.neg v) s [.reg .a, .f] [] [] fun t => (t.a, t.f) = subBytes 0 s.a false)
    ∧ (Completes .ccf s [.f] [] [] fun t =>
        t.f = fbyte (flagS s.f) (flagZ s.f) (s.a.getLsbD 5) (flagC s.f) (s.a.getLsbD 3) (flagPV s.f)
            false (!flagC s.f))
    ∧ (Completes .scf s [.f] [] [] fun t =>
        t.f = fbyte (flagS s.f) (flagZ s.f) (s.a.getLsbD 5) false (s.a.getLsbD 3) (flagPV s.f) false
            true)

/-- DAA run after an addition or subtraction of two decimal bytes, in any of the five operand forms: after
ADD or ADC, A is the decimal sum with the decimal carry in C; after SUB or SBC the
decimal difference with the decimal borrow in C. -/
def Obligations.DaaCorrectsDecimalArithmetic : Prop :=
  ∀ (s : State) (op : AluOp) (i : Instr) (v : Byte),
    IsAluForm op s i v → isBcd s.a = true → isBcd v = true →
    let carry := (flagC s.f).toNat
    let becomes := fun (holds : Nat → Nat → Prop) => ∃ t u, exec i s = .next t ∧ exec .daa t = .next u
      ∧ isBcd u.a = true ∧ holds (bcdValue u.a) (100 * (flagC u.f).toNat)
    (op = .add → becomes fun d c => d + c = bcdValue s.a + bcdValue v)
    ∧ (op = .adc → becomes fun d c => d + c = bcdValue s.a + bcdValue v + carry)
    ∧ (op = .sub → becomes fun d c => d + bcdValue v = bcdValue s.a + c)
    ∧ (op = .sbc → becomes fun d c => d + bcdValue v + carry = bcdValue s.a + c)

/-- The instructions that act on the core itself: NOP, the unofficial ED slots, HALT, DI, EI, the
interrupt modes with every alias, and the index prefix that changes nothing of what follows it. -/
def Obligations.ControlInstructions : Prop :=
  ∀ s : State,
    (Completes .nop s [] [] [] fun _ => True)
    ∧ (∀ v, Completes (.nopEd v) s [] [] [] fun _ => True)
    ∧ (Completes .halt s [.halted, .pc] [] [] fun t => t.halted = true ∧ t.pc = s.pc - 1)
    ∧ (Completes .di s [.iff1, .iff2] [] [] fun t => t.iff1 = false ∧ t.iff2 = false)
    ∧ (Completes .ei s [.iff1, .iff2, .intBlocked] [] [] fun t =>
        t.iff1 = true ∧ t.iff2 = true ∧ t.intBlocked = true)
    ∧ (∀ v, Completes (.imZero v) s [.im] [] [] fun t => t.im = .im0)
    ∧ (∀ v, Completes (.imOne v) s [.im] [] [] fun t => t.im = .im1)
    ∧ (∀ v, Completes (.imTwo v) s [.im] [] [] fun t => t.im = .im2)
    ∧ (∀ x op, isIndexPrefix op = false →
        Completes (.ignoredIndexPrefix x op) s [] [] [] fun _ => True)
    ∧ (∀ x op, isIndexPrefix op = true →
        Completes (.ignoredIndexPrefix x op) s [.pc, .refresh, .pendingIndex, .intBlocked] []
          [.readFetch s.pc] fun t => t.pc = s.pc + 1 ∧ t.r = refreshInc s.r
            ∧ t.pendingIndex = some (prefixIdx op) ∧ t.intBlocked = true)

/-! ## 16-bit arithmetic -/

/-- The 16-bit additions and subtractions: seven idle T-states at I : R, MEMPTR the old destination plus
1, and the flags of R184 and R185. -/
def Obligations.WideArithmetic : Prop :=
  ∀ s : State,
    let calls : List BusCall := List.replicate 7 (.noRequestMem (join s.i s.r))
    let parts : List Part := [.reg .h, .reg .l, .f, .memptr]
    let onHl := fun (i : Instr) (w : Word × Byte) => Completes i s parts [] calls fun t =>
      t.hl = w.1 ∧ t.f = w.2 ∧ t.memptr = s.hl + 1
    (∀ ss, onHl (.addHlSs ss) (addWords s.hl (s.pairSp ss) s.f))
    ∧ (∀ ss, onHl (.adcHlSs ss) (adcWords s.hl (s.pairSp ss) (flagC s.f)))
    ∧ (∀ ss, onHl (.sbcHlSs ss) (sbcWords s.hl (s.pairSp ss) (flagC s.f)))
    ∧ (∀ x pp, Completes (.addIdxPp x pp) s (.f :: .memptr :: idxParts x) [] calls fun t =>
        t.idx x = (addWords (s.idx x) (s.pairIdx x pp) s.f).1
        ∧ t.f = (addWords (s.idx x) (s.pairIdx x pp) s.f).2 ∧ t.memptr = s.idx x + 1)

/-- INC and DEC of a pair, of SP and of an index register: modulo 2^16, no flag. -/
def Obligations.IncDecPairs : Prop :=
  ∀ s : State,
    let calls : List BusCall := List.replicate 2 (.noRequestMem (join s.i s.r))
    (∀ ss, Completes (.incSs ss) s (pairSpParts ss) [] calls fun t => t.pairSp ss = s.pairSp ss + 1)
    ∧ (∀ ss, Completes (.decSs ss) s (pairSpParts ss) [] calls fun t => t.pairSp ss = s.pairSp ss - 1)
    ∧ (∀ x, Completes (.incIdx x) s (idxParts x) [] calls fun t => t.idx x = s.idx x + 1)
    ∧ (∀ x, Completes (.decIdx x) s (idxParts x) [] calls fun t => t.idx x = s.idx x - 1)

/-! ## Rotates, shifts and bits -/

/-- The accumulator rotates: S, Z and P/V kept. -/
def Obligations.AccumulatorRotates : Prop :=
  ∀ s : State,
    let rotates := fun (i : Instr) (k : RotOp) => Completes i s [.reg .a, .f] [] [] fun t =>
      t.a = (rotBits k s.a (flagC s.f)).1
        ∧ t.f = fbyte (flagS s.f) (flagZ s.f) (t.a.getLsbD 5) false (t.a.getLsbD 3) (flagPV s.f) false
            (rotBits k s.a (flagC s.f)).2
    rotates .rlca .rlc ∧ rotates .rrca .rrc ∧ rotates .rla .rl ∧ rotates .rra .rr

/-- The eight rotates and shifts, RES and SET on a register. -/
def Obligations.CbOnRegisters : Prop :=
  ∀ (s : State) (op : CbOp) (r : Reg8),
    Completes (cbR op r) s (.reg r :: op.flagParts) [] [] fun t =>
      CbResult op (s.reg r) s.f (t.reg r) t.f

/-- The eight rotates and shifts, RES and SET on a byte of memory: read, one idle T-state, written back
to the same address. The copy form also writes the byte to the register, H and L being the real
ones. -/
def Obligations.CbOnMemory : Prop :=
  ∀ (s : State) (op : CbOp),
    (∃ w, Completes (cbIndHl op) s op.flagParts [s.hl]
        [.readMem s.hl, .noRequestMem s.hl, .writeMem s.hl w] fun t =>
        t.byteAt s.hl = w ∧ CbResult op (s.memAnswer 0 s.hl) s.f w t.f)
    ∧ (∀ x d, let ea := s.idxAddr x d
        ∃ w, Completes (cbIndIdx op x d) s (.memptr :: op.flagParts) [ea]
          [.readMem ea, .noRequestMem ea, .writeMem ea w] fun t =>
          t.byteAt ea = w ∧ t.memptr = ea ∧ CbResult op (s.memAnswer 0 ea) s.f w t.f)
    ∧ (∀ x d r, let ea := s.idxAddr x d
        ∃ w, Completes (cbIndIdxR op x d r) s (.reg r :: .memptr :: op.flagParts) [ea]
          [.readMem ea, .noRequestMem ea, .writeMem ea w] fun t =>
          t.byteAt ea = w ∧ t.reg r = w ∧ t.memptr = ea ∧ CbResult op (s.memAnswer 0 ea) s.f w t.f)

/-- RLD and RRD: the decimal digits of the byte at HL and the low digit of A go round. -/
def Obligations.DigitRotates : Prop :=
  ∀ s : State,
    let m := (s.memAnswer 0 s.hl).toNat
    let a := s.a.toNat
    let rotates := fun (i : Instr) (a' w : Byte) =>
      Completes i s [.reg .a, .f, .memptr] [s.hl]
        (.readMem s.hl :: List.replicate 4 (.noRequestMem s.hl) ++ [.writeMem s.hl w]) fun t =>
        t.a = a' ∧ t.byteAt s.hl = w ∧ t.f = readBits a' s.f ∧ t.memptr = s.hl + 1
    rotates .rld (byteOf (a / 16 * 16 + m / 16)) (byteOf (m % 16 * 16 + a % 16))
    ∧ rotates .rrd (byteOf (a / 16 * 16 + m % 16)) (byteOf (a % 16 * 16 + m / 16))

/-- BIT on a register, on (HL) and, for every z, on (IDX+d): where F5 and F3 come from is R186's. -/
def Obligations.BitTests : Prop :=
  ∀ (s : State) (b : Fin 8),
    let flags := fun v src : Byte =>
      fbyte (decide (b = 7) && v.getLsbD 7) (!v.getLsbD b) (src.getLsbD 5) true (src.getLsbD 3)
        (!v.getLsbD b) false (flagC s.f)
    (∀ r, Completes (.bitBR b r) s [.f] [] [] fun t => t.f = flags (s.reg r) (s.reg r))
    ∧ (Completes (.bitBIndHl b) s [.f] [] [.readMem s.hl, .noRequestMem s.hl] fun t =>
        t.f = flags (s.memAnswer 0 s.hl) (hiByte s.memptr))
    ∧ (∀ x d z, let ea := s.idxAddr x d
        Completes (.bitBIndIdx x d b z) s [.f, .memptr] [] [.readMem ea, .noRequestMem ea] fun t =>
          t.f = flags (s.memAnswer 0 ea) (hiByte ea) ∧ t.memptr = ea)

/-! ## Jumps, calls and returns -/

/-- The absolute jumps. `JP (HL)` and `JP (IDX)` read no memory. -/
def Obligations.AbsoluteJumps : Prop :=
  ∀ s : State,
    (∀ nn, Completes (.jpNn nn) s [.pc, .memptr] [] (nnCalls s) fun t => t.pc = nn ∧ t.memptr = nn)
    ∧ (∀ cc nn, Completes (.jpCcNn cc nn) s [.pc, .memptr] [] (nnCalls s) fun t =>
        t.memptr = nn ∧ (CondTrue cc s.f → t.pc = nn) ∧ (¬CondTrue cc s.f → t.pc = s.pc + 2))
    ∧ (Completes .jpIndHl s [.pc] [] [] fun t => t.pc = s.hl)
    ∧ (∀ x, Completes (.jpIndIdx x) s [.pc] [] [] fun t => t.pc = s.idx x)

/-- The relative jumps: the target counts from the byte after the displacement; not taken, only the
displacement is read and MEMPTR stays. -/
def Obligations.RelativeJumps : Prop :=
  ∀ (s : State) (e : Byte),
    let target := s.pc + 1 + BitVec.ofInt 16 e.toInt
    let idle : List BusCall := List.replicate 5 (.noRequestMem s.pc)
    let taken := fun (i : Instr) (parts : List Part) (calls : List BusCall) (post : State → Prop) =>
      Completes i s (.pc :: .memptr :: parts) [] (calls ++ idle) fun t =>
        t.pc = target ∧ t.memptr = target ∧ post t
    let notTaken := fun (i : Instr) (parts : List Part) (calls : List BusCall) (post : State → Prop) =>
      Completes i s (.pc :: parts) [] calls fun t => t.pc = s.pc + 1 ∧ post t
    taken (.jr e) [] [.readMem s.pc] (fun _ => True)
    ∧ (∀ cc, (CondTrue (jrCondition cc) s.f → taken (.jrCc cc e) [] [.readMem s.pc] fun _ => True)
        ∧ (¬CondTrue (jrCondition cc) s.f → notTaken (.jrCc cc e) [] [.readMem s.pc] fun _ => True))
    ∧ (s.reg .b ≠ 1 → taken (.djnz e) [.reg .b] [.noRequestMem (join s.i s.r), .readMem s.pc] fun t =>
        t.reg .b = s.reg .b - 1)
    ∧ (s.reg .b = 1 → notTaken (.djnz e) [.reg .b] [.noRequestMem (join s.i s.r), .readMem s.pc]
        fun t => t.reg .b = 0)

/-- CALL, CALL cc and RST: the return address pushed is the address after the instruction. -/
def Obligations.CallsAndRestarts : Prop :=
  ∀ s : State,
    let calls := fun (i : Instr) (nn : Word) =>
      Completes i s [.pc, .memptr, .sp] [s.sp - 1, s.sp - 2]
        (nnCalls s ++ .noRequestMem (s.pc + 1) :: pushCalls s (s.pc + 2)) fun t =>
        t.pc = nn ∧ t.memptr = nn ∧ Pushed (s.pc + 2) s t
    (∀ nn, calls (.callNn nn) nn)
    ∧ (∀ cc nn, (CondTrue cc s.f → calls (.callCcNn cc nn) nn)
        ∧ (¬CondTrue cc s.f → Completes (.callCcNn cc nn) s [.pc, .memptr] [] (nnCalls s) fun t =>
            t.pc = s.pc + 2 ∧ t.memptr = nn))
    ∧ (∀ p : Fin 8, Completes (.rst p) s [.pc, .memptr, .sp] [s.sp - 1, s.sp - 2]
        (.noRequestMem (join s.i s.r) :: pushCalls s s.pc) fun t =>
        t.pc = BitVec.ofNat 16 (8 * p.val) ∧ t.memptr = t.pc ∧ Pushed s.pc s t)

/-- RET, RET cc, RETI and every RETN: PC and MEMPTR the word at SP; RETI and RETN also copy IFF2 to
IFF1. -/
def Obligations.Returns : Prop :=
  ∀ s : State,
    let pops : List BusCall := [.readMem s.sp, .readMem (s.sp + 1)]
    let returned := fun t : State =>
      t.pc = s.wordAnswer 0 s.sp ∧ t.memptr = s.wordAnswer 0 s.sp ∧ t.sp = s.sp + 2
    (Completes .ret s [.pc, .memptr, .sp] [] pops returned)
    ∧ (∀ cc, (CondTrue cc s.f → Completes (.retCc cc) s [.pc, .memptr, .sp] []
          (.noRequestMem (join s.i s.r) :: pops) returned)
        ∧ (¬CondTrue cc s.f → Completes (.retCc cc) s [] [] [.noRequestMem (join s.i s.r)]
            fun _ => True))
    ∧ (Completes .reti s [.pc, .memptr, .sp, .iff1] [] pops fun t => returned t ∧ t.iff1 = s.iff2)
    ∧ (∀ v, Completes (.retn v) s [.pc, .memptr, .sp, .iff1] [] pops fun t =>
        returned t ∧ t.iff1 = s.iff2)

/-! ## Input and output -/

/-- The single inputs and outputs. The byte read is the one the host answers (`State.portByte`: the next
byte of the queue, else a free value: the model's choice, log 5). -/
def Obligations.SingleInputsAndOutputs : Prop :=
  ∀ s : State,
    (∀ n, let port := join s.a n
      Completes (.inAIndN n) s [.reg .a, .memptr, .pc, .ports] [] [.readMem s.pc, .readPort port]
        fun t => t.a = s.portByte port ∧ t.memptr = port + 1 ∧ t.pc = s.pc + 1
          ∧ t.portIn = s.portIn.tail)
    ∧ (∀ r, Completes (.inRIndC r) s [.reg r, .f, .memptr, .ports] [] [.readPort s.bc] fun t =>
        t.reg r = s.portByte s.bc ∧ t.f = readBits (s.portByte s.bc) s.f ∧ t.memptr = s.bc + 1
          ∧ t.portIn = s.portIn.tail)
    ∧ (Completes .inIndC s [.f, .memptr, .ports] [] [.readPort s.bc] fun t =>
        t.f = readBits (s.portByte s.bc) s.f ∧ t.memptr = s.bc + 1 ∧ t.portIn = s.portIn.tail)
    ∧ (∀ n, Completes (.outIndNA n) s [.memptr, .pc] []
        [.readMem s.pc, .writePort (join s.a n) s.a] fun t =>
        t.memptr = join s.a (n + 1) ∧ t.pc = s.pc + 1)
    ∧ (∀ r, Completes (.outIndCR r) s [.memptr] [] [.writePort s.bc (s.reg r)] fun t =>
        t.memptr = s.bc + 1)
    ∧ (Completes .outIndCZero s [.memptr] [] [.writePort s.bc 0x00] fun t => t.memptr = s.bc + 1)

/-- The block inputs: the port carries the old B; the sum k is the byte plus C moved by the step. The byte
is the one the host answers (the model's choice, log 5). -/
def Obligations.BlockInputs : Prop :=
  ∀ s : State,
    let v := s.portByte s.bc
    let b := s.reg .b - 1
    let calls : List BusCall := [.noRequestMem (join s.i s.r), .readPort s.bc, .writeMem s.hl v]
    let parts : List Part := [.reg .b, .reg .h, .reg .l, .f, .memptr, .ports]
    let moved := fun (delta : Word) (k : Nat) (t : State) =>
      t.byteAt s.hl = v ∧ t.reg .b = b ∧ t.hl = s.hl + delta ∧ t.memptr = s.bc + delta
        ∧ t.f = ioBits v b k ∧ t.portIn = s.portIn.tail
    let up := v.toNat + (s.reg .c + 1).toNat
    let down := v.toNat + (s.reg .c - 1).toNat
    let once := fun (i : Instr) (delta : Word) (k : Nat) =>
      Completes i s parts [s.hl] calls (moved delta k)
    let again := fun (i : Instr) (delta : Word) (k : Nat) =>
      if s.reg .b = 1 then once i delta k
      else Completes i s (.pc :: parts) [s.hl] (calls ++ List.replicate 5 (.noRequestMem s.hl)) fun t =>
        moved delta k t ∧ t.pc = s.pc - 2
    once .ini 1 up ∧ once .ind (-1) down ∧ again .inir 1 up ∧ again .indr (-1) down

/-- The block outputs: the port carries the decremented B; the sum k is the byte plus the new L. -/
def Obligations.BlockOutputs : Prop :=
  ∀ s : State,
    let v := s.memAnswer 0 s.hl
    let b := s.reg .b - 1
    let bc := join b (s.reg .c)
    let calls : List BusCall := [.noRequestMem (join s.i s.r), .readMem s.hl, .writePort bc v]
    let parts : List Part := [.reg .b, .reg .h, .reg .l, .f, .memptr]
    let moved := fun (delta : Word) (t : State) =>
      t.bc = bc ∧ t.hl = s.hl + delta ∧ t.memptr = bc + delta
        ∧ t.f = ioBits v b (v.toNat + (t.reg .l).toNat)
    let once := fun (i : Instr) (delta : Word) => Completes i s parts [] calls (moved delta)
    let again := fun (i : Instr) (delta : Word) =>
      if s.reg .b = 1 then once i delta
      else Completes i s (.pc :: parts) [] (calls ++ List.replicate 5 (.noRequestMem bc)) fun t =>
        moved delta t ∧ t.pc = s.pc - 2
    once .outi 1 ∧ once .outd (-1) ∧ again .otir 1 ∧ again .otdr (-1)

/-! ## Laws of the ALU, of memory and of the register file -/

/-- The round trips of the rotates (R182): RR undoes RL and RL undoes RR on the byte and the carry; RRC
undoes RLC and RLC undoes RRC on the byte, the carry after the pair being bit 7 or bit 0 of it; and
no shift undoes another on every byte. -/
def Obligations.RotateRoundTrips : Prop :=
  (∀ (v : Byte) (c : Bool), rot .rr (rot .rl v c).1 (rot .rl v c).2 = (v, c)
      ∧ rot .rl (rot .rr v c).1 (rot .rr v c).2 = (v, c))
  ∧ (∀ (v : Byte) (c d : Bool), rot .rrc (rot .rlc v c).1 d = (v, v.getLsbD 7)
      ∧ rot .rlc (rot .rrc v c).1 d = (v, v.getLsbD 0))
  ∧ (∀ k k' : RotOp, k = .sla ∨ k = .sra ∨ k = .sll ∨ k = .srl →
      k' = .sla ∨ k' = .sra ∨ k' = .sll ∨ k' = .srl →
      ∃ v : Byte, ∀ c d : Bool, (rot k' (rot k v c).1 d).1 ≠ v)
  ∧ (∀ c d : Bool, rot .sla 0x80 c = (0x00, true) ∧ (rot .srl 0x00 d).1 ≠ 0x80 ∧ (rot .sra 0x00 d).1 ≠ 0x80
      ∧ (rot .sll 0x80 c).1 = 0x01 ∧ (rot .srl 0x01 d).1 = 0x00 ∧ (rot .sra 0x01 d).1 = 0x00
      ∧ rot .sla (rot .sra 0x80 c).1 d = (0x80, true) ∧ rot .sla (rot .srl 0x80 c).1 d = (0x80, false))

/-- The identities of R189. That H and C are "not complements in general" is said by a pair on which both
agree. -/
def Obligations.ArithmeticIdentities : Prop :=
  (∀ a b : Byte, (flagZ (cp8 a b) = true ↔ a = b) ∧ (flagC (cp8 a b) = true ↔ a.toNat < b.toNat)
      ∧ (add8 a b false).1 = (sub8 a (BitVec.ofNat 8 ((256 - b.toNat) % 256)) false).1
      ∧ (add8 a b false).2 ≠ (sub8 a (BitVec.ofNat 8 ((256 - b.toNat) % 256)) false).2)
  ∧ (∃ a b : Byte, let add := (add8 a b false).2
      let sub := (sub8 a (BitVec.ofNat 8 ((256 - b.toNat) % 256)) false).2
      flagH add = flagH sub ∧ flagC add = flagC sub)
  ∧ (∀ (a b : Byte) (c : Bool), flagN (add8 a b c).2 = false ∧ flagN (sub8 a b c).2 = true)
  ∧ (∀ (op : AluOp) (a v f g : Byte), flagC f = flagC g ∨ op ≠ .adc ∧ op ≠ .sbc →
      (alu op a v f).1 = (alu op a v g).1)
  ∧ (∀ (k : RotOp) (v f g : Byte), flagC f = flagC g ∨ k ≠ .rl ∧ k ≠ .rr →
      (rotF k v f).1 = (rotF k v g).1 ∧ (rotAF k v f).1 = (rotAF k v g).1)
  ∧ (∀ v f g : Byte, (inc8 v f).1 = (inc8 v g).1 ∧ (dec8 v f).1 = (dec8 v g).1)
  ∧ (∀ a f g : Byte, flagN f = flagN g → flagH f = flagH g → flagC f = flagC g →
      daaF a f = daaF a g)

/-- The host's memory after a write, byte by byte, for every list of cells, and 16 bits at a time with the
low byte first and the address wrapping at 0xFFFF; a 16-bit read answers the word just written if the
host names no other answer. That such a memory is plain RAM is the model's choice (log 3). -/
def Obligations.MemoryReadsBackWhatWasWritten : Prop :=
  ∀ (s : State) (a : Word),
    (∀ (v : Byte) (b : Word), (s.memWrite a v).byteAt b = if b = a then v else s.byteAt b)
    ∧ (∀ v : Word, (s.memIn = [] → ((s.memWrite16 a v).memRead16 a).1 = v)
        ∧ (s.memWrite16 a v).byteAt a = loByte v ∧ (s.memWrite16 a v).byteAt (a + 1) = hiByte v
        ∧ ∀ b : Word, b ≠ a → b ≠ a + 1 → (s.memWrite16 a v).byteAt b = s.byteAt b)

/-- Restoring a snapshot (R50): refused with `InvalidState` exactly when IM is not 0, 1 or 2, a value is
wider than its field, or HALTED = 1 goes with a pending prefix; else the register file reads back as
the snapshot, and the host's side is untouched. Restoring the register file as one whole is the
model's form of it (log 14). -/
def Obligations.RestoreAcceptsExactlyThePossible : Prop :=
  ∀ (s : State) (n : Snapshot),
    let possible := n.im ≤ 2
      ∧ (∀ v ∈ [n.af, n.bc, n.de, n.hl, n.afAlt, n.bcAlt, n.deAlt, n.hlAlt, n.ix, n.iy, n.sp, n.pc,
          n.memptr], v < 2 ^ 16)
      ∧ n.i < 2 ^ 8 ∧ n.r < 2 ^ 8 ∧ n.iff1 < 2 ∧ n.iff2 < 2 ∧ n.halted < 2 ∧ n.intBlocked < 2
      ∧ ¬(n.halted = 1 ∧ n.pendingIndex ≠ none)
    (¬possible → s.restore n = .fault .invalidState)
    ∧ (possible → ∃ t, s.restore n = .next t ∧ t.capture = n ∧ t.mem = s.mem ∧ t.memIn = s.memIn
        ∧ t.portIn = s.portIn ∧ t.draws = s.draws ∧ t.bus = s.bus ∧ Part.inputs.same s t)

/-- Power-on (R51): every register is 0, IFF1 = IFF2 = 0, IM = 0, HALTED = 0, INT_BLOCKED = 0,
PENDING_INDEX is NONE and T is 0; no acknowledge has fired. That `State.reset` is the state at power-on is
the model's reading (log 1). -/
def Obligations.PowerOnValues : Prop :=
  State.reset.capture =
    { af := 0, bc := 0, de := 0, hl := 0, afAlt := 0, bcAlt := 0, deAlt := 0, hlAlt := 0, ix := 0,
      iy := 0, sp := 0, pc := 0, i := 0, r := 0, memptr := 0, iff1 := 0, iff2 := 0, im := 0,
      halted := 0, intBlocked := 0, pendingIndex := none, tStates := 0 }
  ∧ State.reset.timesIssued .ackReset = 0 ∧ State.reset.timesIssued .ackNmi = 0
  ∧ State.reset.timesIssued .ackInt = 0

/-- MEMPTR is read by `BIT b,(HL)` and the block searches alone: run from states that differ only in
MEMPTR, every other instruction answers states that differ at most in MEMPTR. -/
def Obligations.MemptrReachesNothingElse : Prop :=
  ∀ (i : Instr) (s : State) (w : Word), readsMemptr i = false →
    ∃ t w', exec i s = .next t ∧ exec i { s with memptr := w } = .next { t with memptr := w' }

/-- Nothing depends on T: run from states that differ only in T, a step answers states that differ only
in T, by the same amount. -/
def Obligations.NothingDependsOnT : Prop :=
  ∀ (s : State) (n : Nat), ∃ t, step s = .next t
    ∧ step { s with tStates := s.tStates + n } = .next { t with tStates := t.tStates + n }

/-- The EI shadow (R582): the step that runs EI leaves IFF1 = IFF2 = 1 and INT_BLOCKED = 1, so with NMI
and RESET not requested the next step takes no INT, whatever IntRequested is; the step after that
one takes a requested INT, if its instruction was not EI again (nor a redundant prefix) and left
IFF1 set. -/
def Obligations.EiShadowLastsOneStep : Prop :=
  ∀ s : State, s.noSignal = true → s.halted = false → s.pendingIndex = none → s.streamByte 0 = 0xFB →
    ∃ t, step s = .next t ∧ t.iff1 = true ∧ t.iff2 = true ∧ t.intBlocked = true
      ∧ ∀ (int : Bool) (data : Byte), (t.withInputs false false int data).takesInt = false
        ∧ ∃ u, step (t.withInputs false false int data) = .next u
          ∧ ((t.withInputs false false int data).runsInstr.1 ≠ .ei → u.pendingIndex = none →
              (u.withInputs false false true data).takesInt = u.iff1)
end

