-- ==== Sys2Proof/Laws/Bits.lean ====
section
/-! SUPPORT. The small laws of the byte helpers and of the flag byte. -/

namespace Sys2Proof

theorem join_toNat (h l : Byte) : (join h l).toNat = 256 * h.toNat + l.toNat := by
  have := l.isLt
  show (h ++ l : BitVec (8 + 8)).toNat = _
  rw [BitVec.toNat_append, ← Nat.shiftLeft_add_eq_or_of_lt l.isLt, Nat.shiftLeft_eq]
  omega

theorem hiByte_toNat (w : Word) : (hiByte w).toNat = w.toNat / 256 := by
  have := w.isLt
  rw [hiByte, BitVec.extractLsb'_toNat, Nat.shiftRight_eq_div_pow]
  omega

theorem loByte_toNat (w : Word) : (loByte w).toNat = w.toNat % 256 := by
  rw [loByte, BitVec.extractLsb'_toNat, Nat.shiftRight_eq_div_pow]
  omega

@[simp] theorem hiByte_join (h l : Byte) : hiByte (join h l) = h := by
  apply BitVec.eq_of_toNat_eq
  have := l.isLt
  rw [hiByte_toNat, join_toNat]
  omega

@[simp] theorem loByte_join (h l : Byte) : loByte (join h l) = l := by
  apply BitVec.eq_of_toNat_eq
  have := l.isLt
  rw [loByte_toNat, join_toNat]
  omega

@[simp] theorem join_hiByte_loByte (w : Word) : join (hiByte w) (loByte w) = w := by
  apply BitVec.eq_of_toNat_eq
  rw [join_toNat, hiByte_toNat, loByte_toNat]
  omega

/-- The eight flags of a built flag byte are the eight bits it was built from. -/
@[simp] theorem flagS_fbyte (s z y h x pv n c : Bool) : flagS (fbyte s z y h x pv n c) = s := by
  cases s <;> cases z <;> cases y <;> cases h <;> cases x <;> cases pv <;> cases n <;> cases c <;> rfl

@[simp] theorem flagZ_fbyte (s z y h x pv n c : Bool) : flagZ (fbyte s z y h x pv n c) = z := by
  cases s <;> cases z <;> cases y <;> cases h <;> cases x <;> cases pv <;> cases n <;> cases c <;> rfl

@[simp] theorem flagY_fbyte (s z y h x pv n c : Bool) : flagY (fbyte s z y h x pv n c) = y := by
  cases s <;> cases z <;> cases y <;> cases h <;> cases x <;> cases pv <;> cases n <;> cases c <;> rfl

@[simp] theorem flagH_fbyte (s z y h x pv n c : Bool) : flagH (fbyte s z y h x pv n c) = h := by
  cases s <;> cases z <;> cases y <;> cases h <;> cases x <;> cases pv <;> cases n <;> cases c <;> rfl

@[simp] theorem flagX_fbyte (s z y h x pv n c : Bool) : flagX (fbyte s z y h x pv n c) = x := by
  cases s <;> cases z <;> cases y <;> cases h <;> cases x <;> cases pv <;> cases n <;> cases c <;> rfl

@[simp] theorem flagPV_fbyte (s z y h x pv n c : Bool) : flagPV (fbyte s z y h x pv n c) = pv := by
  cases s <;> cases z <;> cases y <;> cases h <;> cases x <;> cases pv <;> cases n <;> cases c <;> rfl

@[simp] theorem flagN_fbyte (s z y h x pv n c : Bool) : flagN (fbyte s z y h x pv n c) = n := by
  cases s <;> cases z <;> cases y <;> cases h <;> cases x <;> cases pv <;> cases n <;> cases c <;> rfl

@[simp] theorem flagC_fbyte (s z y h x pv n c : Bool) : flagC (fbyte s z y h x pv n c) = c := by
  cases s <;> cases z <;> cases y <;> cases h <;> cases x <;> cases pv <;> cases n <;> cases c <;> rfl

/-- A flag byte is determined by its eight flags (10_state.md R40: every bit is defined). -/
theorem flags_ext (f g : Byte) (hS : flagS f = flagS g) (hZ : flagZ f = flagZ g) (hY : flagY f = flagY g)
    (hH : flagH f = flagH g) (hX : flagX f = flagX g) (hP : flagPV f = flagPV g)
    (hN : flagN f = flagN g) (hC : flagC f = flagC g) : f = g := by
  apply BitVec.eq_of_getLsbD_eq
  intro k hk
  have hk' : k = 0 ∨ k = 1 ∨ k = 2 ∨ k = 3 ∨ k = 4 ∨ k = 5 ∨ k = 6 ∨ k = 7 := by omega
  rcases hk' with rfl | rfl | rfl | rfl | rfl | rfl | rfl | rfl <;> assumption

end Sys2Proof
end

