-- ==== Sys2Proof/Laws/Flags.lean ====
section
/-! SUPPORT. What each flag function of Sys2Proof/Machine/Flags.lean computes, once, as the integer and
single-bit form of Sys2Proof/Safety.lean: the lemmas named `<function>_eq`. -/

namespace Sys2Proof

open Sys2Proof.Machine

theorem bitAt_getLsbD (b : Bool) (k j : Nat) (hk : k < 8) : (bitAt b k).getLsbD j = (b && decide (j
    = k)) := by
  have hk' : k = 0 ∨ k = 1 ∨ k = 2 ∨ k = 3 ∨ k = 4 ∨ k = 5 ∨ k = 6 ∨ k = 7 := by omega
  cases b
  · simp [bitAt]
  · by_cases hj : j < 8
    · have hj' : j = 0 ∨ j = 1 ∨ j = 2 ∨ j = 3 ∨ j = 4 ∨ j = 5 ∨ j = 6 ∨ j = 7 := by
        omega
      rcases hk' with rfl | rfl | rfl | rfl | rfl | rfl | rfl | rfl <;> rcases hj' with rfl | rfl |
          rfl | rfl | rfl | rfl | rfl | rfl <;> rfl
    · rw [BitVec.getLsbD_of_ge _ _ (by omega)]; simp; omega

@[simp] theorem flagS_or (u v : Byte) : flagS (u ||| v) = (flagS u || flagS v) := by simp [flagS]

@[simp] theorem flagS_and (u v : Byte) : flagS (u &&& v) = (flagS u && flagS v) := by simp [flagS]

@[simp] theorem flagS_bitAt (b : Bool) (k : Nat) (hk : k < 8) :
    flagS (bitAt b k) = (b && decide (7 = k)) := bitAt_getLsbD b k 7 hk

@[simp] theorem flagS_ofNat (n : Nat) : flagS (BitVec.ofNat 8 n) = n.testBit 7 := by
  rw [flagS, BitVec.getLsbD_ofNat]; simp

@[simp] theorem flagZ_or (u v : Byte) : flagZ (u ||| v) = (flagZ u || flagZ v) := by simp [flagZ]

@[simp] theorem flagZ_and (u v : Byte) : flagZ (u &&& v) = (flagZ u && flagZ v) := by simp [flagZ]

@[simp] theorem flagZ_bitAt (b : Bool) (k : Nat) (hk : k < 8) :
    flagZ (bitAt b k) = (b && decide (6 = k)) := bitAt_getLsbD b k 6 hk

@[simp] theorem flagZ_ofNat (n : Nat) : flagZ (BitVec.ofNat 8 n) = n.testBit 6 := by
  rw [flagZ, BitVec.getLsbD_ofNat]; simp

@[simp] theorem flagY_or (u v : Byte) : flagY (u ||| v) = (flagY u || flagY v) := by simp [flagY]

@[simp] theorem flagY_and (u v : Byte) : flagY (u &&& v) = (flagY u && flagY v) := by simp [flagY]

@[simp] theorem flagY_bitAt (b : Bool) (k : Nat) (hk : k < 8) :
    flagY (bitAt b k) = (b && decide (5 = k)) := bitAt_getLsbD b k 5 hk

@[simp] theorem flagY_ofNat (n : Nat) : flagY (BitVec.ofNat 8 n) = n.testBit 5 := by
  rw [flagY, BitVec.getLsbD_ofNat]; simp

@[simp] theorem flagH_or (u v : Byte) : flagH (u ||| v) = (flagH u || flagH v) := by simp [flagH]

@[simp] theorem flagH_and (u v : Byte) : flagH (u &&& v) = (flagH u && flagH v) := by simp [flagH]

@[simp] theorem flagH_bitAt (b : Bool) (k : Nat) (hk : k < 8) :
    flagH (bitAt b k) = (b && decide (4 = k)) := bitAt_getLsbD b k 4 hk

@[simp] theorem flagH_ofNat (n : Nat) : flagH (BitVec.ofNat 8 n) = n.testBit 4 := by
  rw [flagH, BitVec.getLsbD_ofNat]; simp

@[simp] theorem flagX_or (u v : Byte) : flagX (u ||| v) = (flagX u || flagX v) := by simp [flagX]

@[simp] theorem flagX_and (u v : Byte) : flagX (u &&& v) = (flagX u && flagX v) := by simp [flagX]

@[simp] theorem flagX_bitAt (b : Bool) (k : Nat) (hk : k < 8) :
    flagX (bitAt b k) = (b && decide (3 = k)) := bitAt_getLsbD b k 3 hk

@[simp] theorem flagX_ofNat (n : Nat) : flagX (BitVec.ofNat 8 n) = n.testBit 3 := by
  rw [flagX, BitVec.getLsbD_ofNat]; simp

@[simp] theorem flagPV_or (u v : Byte) : flagPV (u ||| v) = (flagPV u || flagPV v) := by simp
    [flagPV]

@[simp] theorem flagPV_and (u v : Byte) : flagPV (u &&& v) = (flagPV u && flagPV v) := by simp
    [flagPV]

@[simp] theorem flagPV_bitAt (b : Bool) (k : Nat) (hk : k < 8) :
    flagPV (bitAt b k) = (b && decide (2 = k)) := bitAt_getLsbD b k 2 hk

@[simp] theorem flagPV_ofNat (n : Nat) : flagPV (BitVec.ofNat 8 n) = n.testBit 2 := by
  rw [flagPV, BitVec.getLsbD_ofNat]; simp

@[simp] theorem flagN_or (u v : Byte) : flagN (u ||| v) = (flagN u || flagN v) := by simp [flagN]

@[simp] theorem flagN_and (u v : Byte) : flagN (u &&& v) = (flagN u && flagN v) := by simp [flagN]

@[simp] theorem flagN_bitAt (b : Bool) (k : Nat) (hk : k < 8) :
    flagN (bitAt b k) = (b && decide (1 = k)) := bitAt_getLsbD b k 1 hk

@[simp] theorem flagN_ofNat (n : Nat) : flagN (BitVec.ofNat 8 n) = n.testBit 1 := by
  rw [flagN, BitVec.getLsbD_ofNat]; simp

@[simp] theorem flagC_or (u v : Byte) : flagC (u ||| v) = (flagC u || flagC v) := by simp [flagC]

@[simp] theorem flagC_and (u v : Byte) : flagC (u &&& v) = (flagC u && flagC v) := by simp [flagC]

@[simp] theorem flagC_bitAt (b : Bool) (k : Nat) (hk : k < 8) :
    flagC (bitAt b k) = (b && decide (0 = k)) := bitAt_getLsbD b k 0 hk

@[simp] theorem flagC_ofNat (n : Nat) : flagC (BitVec.ofNat 8 n) = n.testBit 0 := by
  rw [flagC, BitVec.getLsbD_ofNat]; simp

theorem szxy_eq (v : Byte) : szxy v = fbyte (v.getLsbD 7) (v == 0) (v.getLsbD 5) false (v.getLsbD 3)
    false false false := rfl

theorem parity_eq : ∀ v : Byte, parity v = evenOnes v := by decide +kernel

theorem ldAIRF_eq (v f : Byte) (b : Bool) : ldAIRF v f b = fbyte (v.getLsbD 7) (v == 0) (v.getLsbD
    5) false (v.getLsbD 3) b false (flagC f) := by
  apply flags_ext <;> simp [ldAIRF, szxy_eq, Nat.testBit]

theorem cplF_eq (a f : Byte) : cplF a f = fbyte (flagS f) (flagZ f) (a.getLsbD 5) true (a.getLsbD 3)
    (flagPV f) true (flagC f) := by
  apply flags_ext <;> simp [cplF, Nat.testBit] <;> rfl

theorem ccfF_eq (a f : Byte) : ccfF a f = fbyte (flagS f) (flagZ f) (a.getLsbD 5) (flagC f)
    (a.getLsbD 3) (flagPV f) false (!flagC f) := by
  apply flags_ext <;> simp [ccfF, Nat.testBit] <;> rfl

theorem scfF_eq (a f : Byte) : scfF a f = fbyte (flagS f) (flagZ f) (a.getLsbD 5) false (a.getLsbD
    3) (flagPV f) false true := by
  apply flags_ext <;> simp [scfF, Nat.testBit] <;> rfl

theorem logic_eq (v : Byte) (h : Bool) : logic v h = logicBits v h := by
  rw [logic, logicBits, parity_eq]

theorem logicKeepC_eq (v f : Byte) : logicKeepC v f = readBits v f := by
  apply flags_ext <;> simp [logicKeepC, logic, readBits, parity_eq, Nat.testBit]

theorem ldBlockF_eq (a v f : Byte) (m : Bool) : ldBlockF a v f m = fbyte (flagS f) (flagZ f) ((v +
    a).getLsbD 1) false ((v + a).getLsbD 3) m false (flagC f) := by
  apply flags_ext <;> simp [ldBlockF, Nat.testBit]

theorem ioBlockF_eq (v b : Byte) (k : Nat) : ioBlockF v b k = ioBits v b k := by
  rw [ioBlockF, ioBits, parity_eq]

theorem bitF_eq (b : Fin 8) (v s f : Byte) : bitF b v s f = fbyte (decide (b = 7) && v.getLsbD 7)
    (!v.getLsbD b) (s.getLsbD 5) true (s.getLsbD 3) (!v.getLsbD b) false (flagC f) := by
  unfold bitF
  by_cases h : b = 7
  · subst h; rfl
  · simp [h]

theorem rot_eq : ∀ (k : RotOp) (v : Byte) (c : Bool), rot k v c = rotBits k v c := by
  intro k; cases k <;> decide +kernel

theorem rotF_eq (k : RotOp) (v f : Byte) : rotF k v f = ((rotBits k v (flagC f)).1, fbyte ((rotBits
    k v (flagC f)).1.getLsbD 7) ((rotBits k v (flagC f)).1 == 0) ((rotBits k v (flagC f)).1.getLsbD
    5) false ((rotBits k v (flagC f)).1.getLsbD 3) (evenOnes (rotBits k v (flagC f)).1) false
    (rotBits k v (flagC f)).2) := by
  rw [rotF, ← rot_eq]; refine Prod.ext rfl ?_
  apply flags_ext <;> simp [logic, parity_eq]

theorem rotAF_eq (k : RotOp) (a f : Byte) : rotAF k a f = ((rotBits k a (flagC f)).1, fbyte (flagS
    f) (flagZ f) ((rotBits k a (flagC f)).1.getLsbD 5) false ((rotBits k a (flagC f)).1.getLsbD 3)
    (flagPV f) false (rotBits k a (flagC f)).2) := by
  rw [rotAF, ← rot_eq]; refine Prod.ext rfl ?_
  apply flags_ext <;> simp [Nat.testBit] <;> rfl

theorem toNat_mod16 (v : Byte) : v.toNat % 16 = (v &&& 0x0F#8).toNat := by
  rw [BitVec.toNat_and]; exact (Nat.and_two_pow_sub_one_eq_mod v.toNat 4).symm

theorem toNat_mod4096 (v : Word) : v.toNat % 4096 = (v &&& 0x0FFF#16).toNat := by
  rw [BitVec.toNat_and]; exact (Nat.and_two_pow_sub_one_eq_mod v.toNat 12).symm

theorem getLsbD_seven (v : Byte) : v.getLsbD 7 = decide (v.toNat ≥ 128) := by
  have := BitVec.msb_eq_decide v; simpa [BitVec.msb_eq_getLsbD_last] using this

theorem getLsbD_fifteen (v : Word) : v.getLsbD 15 = decide (v.toNat ≥ 32768) := by
  have := BitVec.msb_eq_decide v; simpa [BitVec.msb_eq_getLsbD_last] using this

theorem addOverflow8 (a b : Byte) (c : Bool) : (a.getLsbD 7 == b.getLsbD 7 && (BitVec.ofNat 8
    (a.toNat + b.toNat + c.toNat)).getLsbD 7 != a.getLsbD 7) = (decide (a.toInt + b.toInt +
    (c.toNat:Int) < -128) || decide (a.toInt + b.toInt + (c.toNat:Int) > 127)) := by
  rw [Bool.eq_iff_iff]
  simp only [getLsbD_seven, BitVec.toNat_ofNat, BitVec.toInt_eq_toNat_cond, Bool.and_eq_true,
      Bool.or_eq_true, beq_iff_eq, bne_iff_ne, ne_eq, decide_eq_decide, decide_eq_true_eq]
  have := a.isLt; have := b.isLt; have : c.toNat ≤ 1 := by cases c <;> simp
  split <;> split <;> omega

theorem add8_eq (a b : Byte) (c : Bool) : add8 a b c = addBytes a b c := by
  unfold add8 addBytes; simp only [addOverflow8, toNat_mod16]; rfl

theorem ofInt_sub8 (a b : Byte) (c : Bool) : BitVec.ofInt 8 ((a.toNat : Int) - b.toNat - c.toNat) =
    a - b - BitVec.ofNat 8 c.toNat := by
  apply BitVec.eq_of_toNat_eq
  have := a.isLt; have := b.isLt; have : c.toNat ≤ 1 := by cases c <;> simp
  simp only [BitVec.toNat_ofInt, BitVec.toNat_sub, BitVec.toNat_ofNat]
  omega

theorem subOverflow8 (a b : Byte) (c : Bool) : (a.getLsbD 7 != b.getLsbD 7 && (a - b - BitVec.ofNat
    8 c.toNat).getLsbD 7 != a.getLsbD 7) = (decide (a.toInt - b.toInt - (c.toNat:Int) < -128) ||
    decide (a.toInt - b.toInt - (c.toNat:Int) > 127)) := by
  rw [Bool.eq_iff_iff]
  simp only [getLsbD_seven, BitVec.toNat_sub, BitVec.toNat_ofNat, BitVec.toInt_eq_toNat_cond,
      Bool.and_eq_true, Bool.or_eq_true, bne_iff_ne, ne_eq, decide_eq_decide, decide_eq_true_eq]
  have := a.isLt; have := b.isLt; have : c.toNat ≤ 1 := by cases c <;> simp
  split <;> split <;> omega

theorem decide_sub_neg (a b : Nat) (c : Bool) : decide ((a:Int) - b - c.toNat < 0) = decide (a < b +
    c.toNat) := by
  congr 1; apply propext; omega

theorem sub8_eq (a b : Byte) (c : Bool) : sub8 a b c = subBytes a b c := by
  unfold sub8 subBytes; simp only [ofInt_sub8, subOverflow8, toNat_mod16, decide_sub_neg]; rfl

theorem inc8_eq : ∀ (v f : Byte), inc8 v f = incBits v f := by
  intro v f; unfold inc8 incBits
  have : ∀ v : Byte, (v &&& 0x0F == 0x0F) = decide (v.toNat % 16 = 15) ∧ (v == 0x7F) = decide
      (v.toInt = 127) := by decide +kernel
  rw [(this v).1, (this v).2]

theorem dec8_eq : ∀ (v f : Byte), dec8 v f = decBits v f := by
  intro v f; unfold dec8 decBits
  have : ∀ v : Byte, (v &&& 0x0F == 0x00) = decide (v.toNat % 16 = 0) ∧ (v == 0x80) = decide
      (v.toInt = -128) := by decide +kernel
  rw [(this v).1, (this v).2]

theorem alu_eq (op : AluOp) (a v f : Byte) : alu op a v f = aluBits op a v (flagC f) := by
  cases op <;> simp only [alu, aluBits, add8_eq, sub8_eq, logic_eq]
  refine Prod.ext rfl ?_
  have hz : (a - v == 0#8) = (a == v) := by
    rw [Bool.eq_iff_iff]; simp only [beq_iff_eq]; constructor <;> intro h
    · bv_omega
    · subst h; simp
  apply flags_ext <;> simp [cp8, sub8_eq, subBytes, hz, Nat.testBit] <;> rfl

theorem daaF_eq (a f : Byte) : daaF a f = daaBits a f := by
  have key : ∀ (a : Byte) (n h c : Bool), daaF a (fbyte false false false h false false n c) =
      daaBits a (fbyte false false false h false false n c) := by
    intro a n h c; revert a; cases n <;> cases h <;> cases c <;> decide +kernel
  have e1 : daaF a f = daaF a (fbyte false false false (flagH f) false false (flagN f) (flagC f)) :=
      by unfold daaF; simp
  have e2 : daaBits a f = daaBits a (fbyte false false false (flagH f) false false (flagN f) (flagC
      f)) := by unfold daaBits; simp
  rw [e1, e2, key]

theorem hiByte_getLsbD (w : Word) (k : Nat) (h : k < 8) : (hiByte w).getLsbD k = w.getLsbD (8 + k)
    := by
  simp [hiByte, h]

theorem flagY_hiByte (w : Word) : flagY (hiByte w) = w[13] := by
  rw [show flagY (hiByte w) = (hiByte w).getLsbD 5 from rfl, hiByte_getLsbD w 5 (by omega)]
  simp

theorem flagX_hiByte (w : Word) : flagX (hiByte w) = w[11] := by
  rw [show flagX (hiByte w) = (hiByte w).getLsbD 3 from rfl, hiByte_getLsbD w 3 (by omega)]
  simp

theorem add16_eq (a b : Word) (f : Byte) : add16 a b f = addWords a b f := by
  have hr : BitVec.ofNat 16 (a.toNat + b.toNat) = a + b := by apply BitVec.eq_of_toNat_eq; simp
  unfold add16 addWords; simp only [hr, toNat_mod4096]
  refine Prod.ext rfl ?_
  apply flags_ext <;> simp [flagY_hiByte, flagX_hiByte, Nat.testBit]

theorem addOverflow16 (a b : Word) (c : Bool) : (a.getLsbD 15 == b.getLsbD 15 && (BitVec.ofNat 16
    (a.toNat + b.toNat + c.toNat)).getLsbD 15 != a.getLsbD 15) = (decide (a.toInt + b.toInt +
    (c.toNat:Int) < -32768) || decide (a.toInt + b.toInt + (c.toNat:Int) > 32767)) := by
  rw [Bool.eq_iff_iff]
  simp only [getLsbD_fifteen, BitVec.toNat_ofNat, BitVec.toInt_eq_toNat_cond, Bool.and_eq_true,
      Bool.or_eq_true, beq_iff_eq, bne_iff_ne, ne_eq, decide_eq_decide, decide_eq_true_eq]
  have := a.isLt; have := b.isLt; have : c.toNat ≤ 1 := by cases c <;> simp
  split <;> split <;> omega

theorem ofInt_sub16 (a b : Word) (c : Bool) : BitVec.ofInt 16 ((a.toNat : Int) - b.toNat - c.toNat)
    = a - b - BitVec.ofNat 16 c.toNat := by
  apply BitVec.eq_of_toNat_eq
  have := a.isLt; have := b.isLt; have : c.toNat ≤ 1 := by cases c <;> simp
  simp only [BitVec.toNat_ofInt, BitVec.toNat_sub, BitVec.toNat_ofNat]
  omega

theorem subOverflow16 (a b : Word) (c : Bool) : (a.getLsbD 15 != b.getLsbD 15 && (a - b -
    BitVec.ofNat 16 c.toNat).getLsbD 15 != a.getLsbD 15) = (decide (a.toInt - b.toInt -
    (c.toNat:Int) < -32768) || decide (a.toInt - b.toInt - (c.toNat:Int) > 32767)) := by
  rw [Bool.eq_iff_iff]
  simp only [getLsbD_fifteen, BitVec.toNat_sub, BitVec.toNat_ofNat, BitVec.toInt_eq_toNat_cond,
      Bool.and_eq_true, Bool.or_eq_true, bne_iff_ne, ne_eq, decide_eq_decide, decide_eq_true_eq]
  have := a.isLt; have := b.isLt; have : c.toNat ≤ 1 := by cases c <;> simp
  split <;> split <;> omega

theorem adc16_eq (a b : Word) (c : Bool) : adc16 a b c = adcWords a b c := by
  unfold adc16 adcWords; simp only [addOverflow16, toNat_mod4096]; rfl

theorem sbc16_eq (a b : Word) (c : Bool) : sbc16 a b c = sbcWords a b c := by
  unfold sbc16 sbcWords; simp only [ofInt_sub16, subOverflow16, toNat_mod4096, decide_sub_neg]; rfl

theorem cpBlockF_eq (a v f : Byte) (m : Bool) : cpBlockF a v f m =
   fbyte ((a - v).getLsbD 7) (a == v) ((a - v - (if decide (a.toNat % 16 < v.toNat % 16) then 1 else
       0)).getLsbD 1) (decide (a.toNat % 16 < v.toNat % 16))
     ((a - v - (if decide (a.toNat % 16 < v.toNat % 16) then 1 else 0)).getLsbD 3) m true (flagC f)
         := by
  have hz : (a - v == 0#8) = (a == v) := by
    rw [Bool.eq_iff_iff]; simp only [beq_iff_eq]; constructor <;> intro h
    · bv_omega
    · subst h; simp
  apply flags_ext <;> simp [cpBlockF, sub8_eq, subBytes, hz, Nat.testBit]

end Sys2Proof
end

