-- ==== Sys2Proof/Laws/Memory.lean ====
section
/-! SUPPORT. The laws of memory: a read after a write, for every list; and that a write keeps the
canonical form, in which equal memories are equal lists. -/

namespace Sys2Proof.Machine

open Sys2Proof

theorem Memory.read_cons_self (a : Nat) (v : Byte) (m : Memory)
    (h : ∀ w, Memory.read m a = w → w = Memory.unlisted) : (Memory.cons a v m).read a = v := by
  unfold Memory.cons
  split
  · next hv => rw [hv]; exact h _ rfl
  · simp [Memory.read]

theorem Memory.read_dropWhile_self (m : Memory) (a : Nat) :
    Memory.read (m.dropWhile fun c => decide (c.1 ≤ a)) a = Memory.unlisted := by
  induction m with
  | nil => rfl
  | cons c m ih =>
    rw [List.dropWhile_cons]
    split
    · exact ih
    · next h => simp only [decide_eq_true_eq, not_le] at h; simp [Memory.read, h]

theorem Memory.read_dropWhile_above (m : Memory) (a b : Nat) (h : a < b) :
    Memory.read (m.dropWhile fun c => decide (c.1 ≤ a)) b = Memory.read m b := by
  induction m with
  | nil => rfl
  | cons c m ih =>
    rw [List.dropWhile_cons]
    split
    · next hc =>
      simp only [decide_eq_true_eq] at hc
      rw [ih, Memory.read, if_neg (by omega), if_neg (by omega)]
    · rfl

theorem Memory.read_dropWhile_below (m : Memory) (a b : Nat) (h : b < a) :
    Memory.read (m.dropWhile fun c => decide (c.1 ≤ a)) b = Memory.unlisted := by
  induction m with
  | nil => rfl
  | cons c m ih =>
    rw [List.dropWhile_cons]
    split
    · exact ih
    · next hc =>
      simp only [decide_eq_true_eq, not_le] at hc
      rw [Memory.read, if_pos (by omega)]

/-- A byte written is read back. -/
@[simp] theorem Memory.read_write_self (m : Memory) (a : Nat) (v : Byte) : (m.write a v).read a = v := by
  induction m with
  | nil => exact Memory.read_cons_self _ _ _ (by intro w h; exact h.symm)
  | cons c m ih =>
    obtain ⟨b, w⟩ := c
    rw [Memory.write]
    split
    · next h => exact Memory.read_cons_self _ _ _ (by intro u hu; rw [← hu, Memory.read, if_pos h])
    · split
      · exact Memory.read_cons_self _ _ _ (by intro u hu; rw [← hu, Memory.read_dropWhile_self])
      · next h1 h2 => rw [Memory.read, if_neg h1, if_neg h2, ih]

/-- A write leaves every other address as it was. -/
theorem Memory.read_write_of_ne (m : Memory) (a b : Nat) (v : Byte) (h : b ≠ a) :
    (m.write a v).read b = m.read b := by
  induction m with
  | nil =>
    rw [Memory.write, Memory.cons]
    split
    · rfl
    · simp only [Memory.read, if_neg h]; split <;> rfl
  | cons c m ih =>
    obtain ⟨e, w⟩ := c
    rw [Memory.write]
    split
    · next hae =>
      rw [Memory.cons]
      split
      · rfl
      · rw [Memory.read]
        split
        · next hb => rw [Memory.read, if_pos (by omega)]
        · rfl
    · split
      · next hae =>
        rw [Memory.cons]
        rcases Nat.lt_or_ge b a with hba | hba
        · have hl : Memory.read ((e, w) :: m) b = Memory.unlisted := by rw [Memory.read, if_pos (by omega)]
          split
          · rw [Memory.read_dropWhile_below _ _ _ hba, hl]
          · rw [Memory.read, if_pos hba, hl]
        · have hab : a < b := by omega
          have hl : Memory.read ((e, w) :: m) b = Memory.read m b := by
            rw [Memory.read, if_neg (by omega), if_neg (by omega)]
          split
          · rw [Memory.read_dropWhile_above _ _ _ hab, hl]
          · rw [Memory.read, if_neg (by omega), if_neg h, Memory.read_dropWhile_above _ _ _ hab, hl]
      · next h1 h2 => rw [Memory.read, Memory.read, ih]

/-- The two laws at once. -/
theorem Memory.read_write (m : Memory) (a b : Nat) (v : Byte) :
    (m.write a v).read b = if b = a then v else m.read b := by
  split
  · next h => rw [h, Memory.read_write_self]
  · next h => exact Memory.read_write_of_ne m a b v h

theorem Memory.wfFrom_mono {m : Memory} {lo lo' : Nat} (h : lo' ≤ lo) (hm : Memory.wfFrom lo m = true) :
    Memory.wfFrom lo' m = true := by
  cases m with
  | nil => rfl
  | cons c m =>
    simp only [Memory.wfFrom, Bool.and_eq_true, decide_eq_true_eq] at hm ⊢
    exact ⟨⟨⟨by omega, hm.1.1.2⟩, hm.1.2⟩, hm.2⟩

theorem Memory.wfFrom_cons {m : Memory} {lo a : Nat} {v : Byte} (hlo : lo ≤ a) (ha : a < 65536)
    (hm : Memory.wfFrom (a + 1) m = true) : Memory.wfFrom lo (Memory.cons a v m) = true := by
  unfold Memory.cons
  split
  · exact Memory.wfFrom_mono (by omega) hm
  · next hv => simp [Memory.wfFrom, hlo, ha, hm, hv]

theorem Memory.wfFrom_write {m : Memory} {lo a : Nat} {v : Byte} (hlo : lo ≤ a) (ha : a < 65536)
    (hm : Memory.wfFrom lo m = true) : Memory.wfFrom lo (m.write a v) = true := by
  induction m generalizing lo with
  | nil => exact Memory.wfFrom_cons hlo ha rfl
  | cons c m ih =>
    obtain ⟨b, w⟩ := c
    have hm' := hm
    simp only [Memory.wfFrom, Bool.and_eq_true, decide_eq_true_eq] at hm
    obtain ⟨⟨⟨h1, h2⟩, h3⟩, h4⟩ := hm
    rw [Memory.write]
    split
    · next hab =>
      apply Memory.wfFrom_cons hlo ha
      simp only [Memory.wfFrom, Bool.and_eq_true, decide_eq_true_eq]
      exact ⟨⟨⟨by omega, h2⟩, h3⟩, h4⟩
    · split
      · next hab =>
        subst hab
        apply Memory.wfFrom_cons hlo ha
        have hd : (m.dropWhile fun c => decide (c.1 ≤ a)) = m := by
          cases m with
          | nil => rfl
          | cons c m =>
            simp only [Memory.wfFrom, Bool.and_eq_true, decide_eq_true_eq] at h4
            rw [List.dropWhile_cons, if_neg]
            simp only [decide_eq_true_eq]; omega
        rw [hd]; exact h4
      · next hab hne =>
        simp only [Memory.wfFrom, Bool.and_eq_true, decide_eq_true_eq]
        exact ⟨⟨⟨h1, h2⟩, h3⟩, ih (by omega) h4⟩

/-- A write keeps the canonical form. -/
theorem Memory.wf_write {m : Memory} (a : Word) (v : Byte) (hm : m.wf = true) : (m.write a.toNat v).wf = true :=
  Memory.wfFrom_write (Nat.zero_le _) (by have := a.isLt; omega) hm

theorem Memory.wf_writeBytes {m : Memory} (a : Word) (vs : List Byte) (hm : m.wf = true) :
    (m.writeBytes a vs).wf = true := by
  induction vs generalizing m a with
  | nil => exact hm
  | cons v vs ih => exact ih _ (Memory.wf_write a v hm)

theorem Memory.read_of_lt {m : Memory} {lo a : Nat} (hm : Memory.wfFrom lo m = true) (h : a < lo) :
    m.read a = Memory.unlisted := by
  cases m with
  | nil => rfl
  | cons c m =>
    simp only [Memory.wfFrom, Bool.and_eq_true, decide_eq_true_eq] at hm
    rw [Memory.read, if_pos (by omega)]

theorem Memory.ext_from {m n : Memory} {lo : Nat} (hm : Memory.wfFrom lo m = true) (hn : Memory.wfFrom lo n = true)
    (h : ∀ a, m.read a = n.read a) : m = n := by
  induction m generalizing n lo with
  | nil =>
    cases n with
    | nil => rfl
    | cons c n =>
      obtain ⟨b, w⟩ := c
      simp only [Memory.wfFrom, Bool.and_eq_true, decide_eq_true_eq, bne_iff_ne] at hn
      have := h b
      simp [Memory.read] at this
      exact absurd this.symm hn.1.2
  | cons c m ih =>
    obtain ⟨b, w⟩ := c
    have hm' := hm
    simp only [Memory.wfFrom, Bool.and_eq_true, decide_eq_true_eq, bne_iff_ne] at hm
    cases n with
    | nil =>
      have := h b
      simp [Memory.read] at this
      exact absurd this hm.1.2
    | cons c' n =>
      obtain ⟨b', w'⟩ := c'
      have hn' := hn
      simp only [Memory.wfFrom, Bool.and_eq_true, decide_eq_true_eq, bne_iff_ne] at hn
      have hbb : b = b' := by
        rcases Nat.lt_trichotomy b b' with hlt | heq | hlt
        · have := h b
          simp [Memory.read, hlt] at this
          exact absurd this hm.1.2
        · exact heq
        · have := h b'
          simp [Memory.read, hlt] at this
          exact absurd this.symm hn.1.2
      subst hbb
      have hww : w = w' := by simpa [Memory.read] using h b
      subst hww
      have hr : ∀ a, Memory.read m a = Memory.read n a := by
        intro a
        rcases Nat.lt_or_ge b a with hba | hba
        · have := h a
          simpa [Memory.read, Nat.not_lt.mpr (Nat.le_of_lt hba), Nat.ne_of_gt hba] using this
        · rw [Memory.read_of_lt hm.2 (by omega), Memory.read_of_lt hn.2 (by omega)]
      rw [ih hm.2 hn.2 hr]

/-- In the canonical form, memories that read alike are equal. -/
theorem Memory.ext {m n : Memory} (hm : m.wf = true) (hn : n.wf = true) (h : ∀ a, m.read a = n.read a) : m = n :=
  Memory.ext_from hm hn h

end Sys2Proof.Machine
end

