-- ==== Sys2Proof/Laws/State.lean ====
section
/-! SUPPORT. One lemma per field and named update of the state, each true by unfolding, so that no later
proof unfolds a record update; then what the register accessors read after each update. -/

namespace Sys2Proof.Machine

open Sys2Proof

/-! ## setA -/

@[simp] theorem setA_af (s : State) (v : Byte) : (s.setA v).af = join v (loByte s.af) := rfl
@[simp] theorem setA_bc (s : State) (v : Byte) : (s.setA v).bc = s.bc := rfl
@[simp] theorem setA_de (s : State) (v : Byte) : (s.setA v).de = s.de := rfl
@[simp] theorem setA_hl (s : State) (v : Byte) : (s.setA v).hl = s.hl := rfl
@[simp] theorem setA_afAlt (s : State) (v : Byte) : (s.setA v).afAlt = s.afAlt := rfl
@[simp] theorem setA_bcAlt (s : State) (v : Byte) : (s.setA v).bcAlt = s.bcAlt := rfl
@[simp] theorem setA_deAlt (s : State) (v : Byte) : (s.setA v).deAlt = s.deAlt := rfl
@[simp] theorem setA_hlAlt (s : State) (v : Byte) : (s.setA v).hlAlt = s.hlAlt := rfl
@[simp] theorem setA_ix (s : State) (v : Byte) : (s.setA v).ix = s.ix := rfl
@[simp] theorem setA_iy (s : State) (v : Byte) : (s.setA v).iy = s.iy := rfl
@[simp] theorem setA_sp (s : State) (v : Byte) : (s.setA v).sp = s.sp := rfl
@[simp] theorem setA_pc (s : State) (v : Byte) : (s.setA v).pc = s.pc := rfl
@[simp] theorem setA_i (s : State) (v : Byte) : (s.setA v).i = s.i := rfl
@[simp] theorem setA_r (s : State) (v : Byte) : (s.setA v).r = s.r := rfl
@[simp] theorem setA_memptr (s : State) (v : Byte) : (s.setA v).memptr = s.memptr := rfl
@[simp] theorem setA_iff1 (s : State) (v : Byte) : (s.setA v).iff1 = s.iff1 := rfl
@[simp] theorem setA_iff2 (s : State) (v : Byte) : (s.setA v).iff2 = s.iff2 := rfl
@[simp] theorem setA_im (s : State) (v : Byte) : (s.setA v).im = s.im := rfl
@[simp] theorem setA_halted (s : State) (v : Byte) : (s.setA v).halted = s.halted := rfl
@[simp] theorem setA_intBlocked (s : State) (v : Byte) : (s.setA v).intBlocked = s.intBlocked := rfl
@[simp] theorem setA_pendingIndex (s : State) (v : Byte) : (s.setA v).pendingIndex = s.pendingIndex := rfl
@[simp] theorem setA_tStates (s : State) (v : Byte) : (s.setA v).tStates = s.tStates := rfl
@[simp] theorem setA_resetRequested (s : State) (v : Byte) : (s.setA v).resetRequested = s.resetRequested := rfl
@[simp] theorem setA_nmiRequested (s : State) (v : Byte) : (s.setA v).nmiRequested = s.nmiRequested := rfl
@[simp] theorem setA_intRequested (s : State) (v : Byte) : (s.setA v).intRequested = s.intRequested := rfl
@[simp] theorem setA_dataBus (s : State) (v : Byte) : (s.setA v).dataBus = s.dataBus := rfl
@[simp] theorem setA_mem (s : State) (v : Byte) : (s.setA v).mem = s.mem := rfl
@[simp] theorem setA_memIn (s : State) (v : Byte) : (s.setA v).memIn = s.memIn := rfl
@[simp] theorem setA_portIn (s : State) (v : Byte) : (s.setA v).portIn = s.portIn := rfl
@[simp] theorem setA_draws (s : State) (v : Byte) : (s.setA v).draws = s.draws := rfl
@[simp] theorem setA_bus (s : State) (v : Byte) : (s.setA v).bus = s.bus := rfl

/-! ## setF -/

@[simp] theorem setF_af (s : State) (v : Byte) : (s.setF v).af = join (hiByte s.af) v := rfl
@[simp] theorem setF_bc (s : State) (v : Byte) : (s.setF v).bc = s.bc := rfl
@[simp] theorem setF_de (s : State) (v : Byte) : (s.setF v).de = s.de := rfl
@[simp] theorem setF_hl (s : State) (v : Byte) : (s.setF v).hl = s.hl := rfl
@[simp] theorem setF_afAlt (s : State) (v : Byte) : (s.setF v).afAlt = s.afAlt := rfl
@[simp] theorem setF_bcAlt (s : State) (v : Byte) : (s.setF v).bcAlt = s.bcAlt := rfl
@[simp] theorem setF_deAlt (s : State) (v : Byte) : (s.setF v).deAlt = s.deAlt := rfl
@[simp] theorem setF_hlAlt (s : State) (v : Byte) : (s.setF v).hlAlt = s.hlAlt := rfl
@[simp] theorem setF_ix (s : State) (v : Byte) : (s.setF v).ix = s.ix := rfl
@[simp] theorem setF_iy (s : State) (v : Byte) : (s.setF v).iy = s.iy := rfl
@[simp] theorem setF_sp (s : State) (v : Byte) : (s.setF v).sp = s.sp := rfl
@[simp] theorem setF_pc (s : State) (v : Byte) : (s.setF v).pc = s.pc := rfl
@[simp] theorem setF_i (s : State) (v : Byte) : (s.setF v).i = s.i := rfl
@[simp] theorem setF_r (s : State) (v : Byte) : (s.setF v).r = s.r := rfl
@[simp] theorem setF_memptr (s : State) (v : Byte) : (s.setF v).memptr = s.memptr := rfl
@[simp] theorem setF_iff1 (s : State) (v : Byte) : (s.setF v).iff1 = s.iff1 := rfl
@[simp] theorem setF_iff2 (s : State) (v : Byte) : (s.setF v).iff2 = s.iff2 := rfl
@[simp] theorem setF_im (s : State) (v : Byte) : (s.setF v).im = s.im := rfl
@[simp] theorem setF_halted (s : State) (v : Byte) : (s.setF v).halted = s.halted := rfl
@[simp] theorem setF_intBlocked (s : State) (v : Byte) : (s.setF v).intBlocked = s.intBlocked := rfl
@[simp] theorem setF_pendingIndex (s : State) (v : Byte) : (s.setF v).pendingIndex = s.pendingIndex := rfl
@[simp] theorem setF_tStates (s : State) (v : Byte) : (s.setF v).tStates = s.tStates := rfl
@[simp] theorem setF_resetRequested (s : State) (v : Byte) : (s.setF v).resetRequested = s.resetRequested := rfl
@[simp] theorem setF_nmiRequested (s : State) (v : Byte) : (s.setF v).nmiRequested = s.nmiRequested := rfl
@[simp] theorem setF_intRequested (s : State) (v : Byte) : (s.setF v).intRequested = s.intRequested := rfl
@[simp] theorem setF_dataBus (s : State) (v : Byte) : (s.setF v).dataBus = s.dataBus := rfl
@[simp] theorem setF_mem (s : State) (v : Byte) : (s.setF v).mem = s.mem := rfl
@[simp] theorem setF_memIn (s : State) (v : Byte) : (s.setF v).memIn = s.memIn := rfl
@[simp] theorem setF_portIn (s : State) (v : Byte) : (s.setF v).portIn = s.portIn := rfl
@[simp] theorem setF_draws (s : State) (v : Byte) : (s.setF v).draws = s.draws := rfl
@[simp] theorem setF_bus (s : State) (v : Byte) : (s.setF v).bus = s.bus := rfl

/-! ## issueRead -/

@[simp] theorem issueRead_af (s : State) (c : BusCall) (n : Nat) : (s.issueRead c n).af = s.af := rfl
@[simp] theorem issueRead_bc (s : State) (c : BusCall) (n : Nat) : (s.issueRead c n).bc = s.bc := rfl
@[simp] theorem issueRead_de (s : State) (c : BusCall) (n : Nat) : (s.issueRead c n).de = s.de := rfl
@[simp] theorem issueRead_hl (s : State) (c : BusCall) (n : Nat) : (s.issueRead c n).hl = s.hl := rfl
@[simp] theorem issueRead_afAlt (s : State) (c : BusCall) (n : Nat) : (s.issueRead c n).afAlt = s.afAlt := rfl
@[simp] theorem issueRead_bcAlt (s : State) (c : BusCall) (n : Nat) : (s.issueRead c n).bcAlt = s.bcAlt := rfl
@[simp] theorem issueRead_deAlt (s : State) (c : BusCall) (n : Nat) : (s.issueRead c n).deAlt = s.deAlt := rfl
@[simp] theorem issueRead_hlAlt (s : State) (c : BusCall) (n : Nat) : (s.issueRead c n).hlAlt = s.hlAlt := rfl
@[simp] theorem issueRead_ix (s : State) (c : BusCall) (n : Nat) : (s.issueRead c n).ix = s.ix := rfl
@[simp] theorem issueRead_iy (s : State) (c : BusCall) (n : Nat) : (s.issueRead c n).iy = s.iy := rfl
@[simp] theorem issueRead_sp (s : State) (c : BusCall) (n : Nat) : (s.issueRead c n).sp = s.sp := rfl
@[simp] theorem issueRead_pc (s : State) (c : BusCall) (n : Nat) : (s.issueRead c n).pc = s.pc := rfl
@[simp] theorem issueRead_i (s : State) (c : BusCall) (n : Nat) : (s.issueRead c n).i = s.i := rfl
@[simp] theorem issueRead_r (s : State) (c : BusCall) (n : Nat) : (s.issueRead c n).r = s.r := rfl
@[simp] theorem issueRead_memptr (s : State) (c : BusCall) (n : Nat) : (s.issueRead c n).memptr = s.memptr := rfl
@[simp] theorem issueRead_iff1 (s : State) (c : BusCall) (n : Nat) : (s.issueRead c n).iff1 = s.iff1 := rfl
@[simp] theorem issueRead_iff2 (s : State) (c : BusCall) (n : Nat) : (s.issueRead c n).iff2 = s.iff2 := rfl
@[simp] theorem issueRead_im (s : State) (c : BusCall) (n : Nat) : (s.issueRead c n).im = s.im := rfl
@[simp] theorem issueRead_halted (s : State) (c : BusCall) (n : Nat) : (s.issueRead c n).halted = s.halted := rfl
@[simp] theorem issueRead_intBlocked (s : State) (c : BusCall) (n : Nat) : (s.issueRead c n).intBlocked = s.intBlocked := rfl
@[simp] theorem issueRead_pendingIndex (s : State) (c : BusCall) (n : Nat) : (s.issueRead c n).pendingIndex = s.pendingIndex := rfl
@[simp] theorem issueRead_tStates (s : State) (c : BusCall) (n : Nat) : (s.issueRead c n).tStates = s.tStates + n := rfl
@[simp] theorem issueRead_resetRequested (s : State) (c : BusCall) (n : Nat) : (s.issueRead c n).resetRequested = s.resetRequested := rfl
@[simp] theorem issueRead_nmiRequested (s : State) (c : BusCall) (n : Nat) : (s.issueRead c n).nmiRequested = s.nmiRequested := rfl
@[simp] theorem issueRead_intRequested (s : State) (c : BusCall) (n : Nat) : (s.issueRead c n).intRequested = s.intRequested := rfl
@[simp] theorem issueRead_dataBus (s : State) (c : BusCall) (n : Nat) : (s.issueRead c n).dataBus = s.dataBus := rfl
@[simp] theorem issueRead_mem (s : State) (c : BusCall) (n : Nat) : (s.issueRead c n).mem = s.mem := rfl
@[simp] theorem issueRead_memIn (s : State) (c : BusCall) (n : Nat) : (s.issueRead c n).memIn = s.memIn.drop 1 := rfl
@[simp] theorem issueRead_portIn (s : State) (c : BusCall) (n : Nat) : (s.issueRead c n).portIn = s.portIn := rfl
@[simp] theorem issueRead_draws (s : State) (c : BusCall) (n : Nat) : (s.issueRead c n).draws = s.draws := rfl
@[simp] theorem issueRead_bus (s : State) (c : BusCall) (n : Nat) : (s.issueRead c n).bus = c :: s.bus := rfl

/-! ## memRead -/

@[simp] theorem memRead_af (s : State) (a : Word) : (s.memRead a).2.af = s.af := rfl
@[simp] theorem memRead_bc (s : State) (a : Word) : (s.memRead a).2.bc = s.bc := rfl
@[simp] theorem memRead_de (s : State) (a : Word) : (s.memRead a).2.de = s.de := rfl
@[simp] theorem memRead_hl (s : State) (a : Word) : (s.memRead a).2.hl = s.hl := rfl
@[simp] theorem memRead_afAlt (s : State) (a : Word) : (s.memRead a).2.afAlt = s.afAlt := rfl
@[simp] theorem memRead_bcAlt (s : State) (a : Word) : (s.memRead a).2.bcAlt = s.bcAlt := rfl
@[simp] theorem memRead_deAlt (s : State) (a : Word) : (s.memRead a).2.deAlt = s.deAlt := rfl
@[simp] theorem memRead_hlAlt (s : State) (a : Word) : (s.memRead a).2.hlAlt = s.hlAlt := rfl
@[simp] theorem memRead_ix (s : State) (a : Word) : (s.memRead a).2.ix = s.ix := rfl
@[simp] theorem memRead_iy (s : State) (a : Word) : (s.memRead a).2.iy = s.iy := rfl
@[simp] theorem memRead_sp (s : State) (a : Word) : (s.memRead a).2.sp = s.sp := rfl
@[simp] theorem memRead_pc (s : State) (a : Word) : (s.memRead a).2.pc = s.pc := rfl
@[simp] theorem memRead_i (s : State) (a : Word) : (s.memRead a).2.i = s.i := rfl
@[simp] theorem memRead_r (s : State) (a : Word) : (s.memRead a).2.r = s.r := rfl
@[simp] theorem memRead_memptr (s : State) (a : Word) : (s.memRead a).2.memptr = s.memptr := rfl
@[simp] theorem memRead_iff1 (s : State) (a : Word) : (s.memRead a).2.iff1 = s.iff1 := rfl
@[simp] theorem memRead_iff2 (s : State) (a : Word) : (s.memRead a).2.iff2 = s.iff2 := rfl
@[simp] theorem memRead_im (s : State) (a : Word) : (s.memRead a).2.im = s.im := rfl
@[simp] theorem memRead_halted (s : State) (a : Word) : (s.memRead a).2.halted = s.halted := rfl
@[simp] theorem memRead_intBlocked (s : State) (a : Word) : (s.memRead a).2.intBlocked = s.intBlocked := rfl
@[simp] theorem memRead_pendingIndex (s : State) (a : Word) : (s.memRead a).2.pendingIndex = s.pendingIndex := rfl
@[simp] theorem memRead_tStates (s : State) (a : Word) : (s.memRead a).2.tStates = s.tStates + 3 := rfl
@[simp] theorem memRead_resetRequested (s : State) (a : Word) : (s.memRead a).2.resetRequested = s.resetRequested := rfl
@[simp] theorem memRead_nmiRequested (s : State) (a : Word) : (s.memRead a).2.nmiRequested = s.nmiRequested := rfl
@[simp] theorem memRead_intRequested (s : State) (a : Word) : (s.memRead a).2.intRequested = s.intRequested := rfl
@[simp] theorem memRead_dataBus (s : State) (a : Word) : (s.memRead a).2.dataBus = s.dataBus := rfl
@[simp] theorem memRead_mem (s : State) (a : Word) : (s.memRead a).2.mem = s.mem := rfl
@[simp] theorem memRead_memIn (s : State) (a : Word) : (s.memRead a).2.memIn = s.memIn.drop 1 := rfl
@[simp] theorem memRead_portIn (s : State) (a : Word) : (s.memRead a).2.portIn = s.portIn := rfl
@[simp] theorem memRead_draws (s : State) (a : Word) : (s.memRead a).2.draws = s.draws := rfl
@[simp] theorem memRead_bus (s : State) (a : Word) : (s.memRead a).2.bus = .readMem a :: s.bus := rfl

/-! ## memWrite -/

@[simp] theorem memWrite_af (s : State) (a : Word) (v : Byte) : (s.memWrite a v).af = s.af := rfl
@[simp] theorem memWrite_bc (s : State) (a : Word) (v : Byte) : (s.memWrite a v).bc = s.bc := rfl
@[simp] theorem memWrite_de (s : State) (a : Word) (v : Byte) : (s.memWrite a v).de = s.de := rfl
@[simp] theorem memWrite_hl (s : State) (a : Word) (v : Byte) : (s.memWrite a v).hl = s.hl := rfl
@[simp] theorem memWrite_afAlt (s : State) (a : Word) (v : Byte) : (s.memWrite a v).afAlt = s.afAlt := rfl
@[simp] theorem memWrite_bcAlt (s : State) (a : Word) (v : Byte) : (s.memWrite a v).bcAlt = s.bcAlt := rfl
@[simp] theorem memWrite_deAlt (s : State) (a : Word) (v : Byte) : (s.memWrite a v).deAlt = s.deAlt := rfl
@[simp] theorem memWrite_hlAlt (s : State) (a : Word) (v : Byte) : (s.memWrite a v).hlAlt = s.hlAlt := rfl
@[simp] theorem memWrite_ix (s : State) (a : Word) (v : Byte) : (s.memWrite a v).ix = s.ix := rfl
@[simp] theorem memWrite_iy (s : State) (a : Word) (v : Byte) : (s.memWrite a v).iy = s.iy := rfl
@[simp] theorem memWrite_sp (s : State) (a : Word) (v : Byte) : (s.memWrite a v).sp = s.sp := rfl
@[simp] theorem memWrite_pc (s : State) (a : Word) (v : Byte) : (s.memWrite a v).pc = s.pc := rfl
@[simp] theorem memWrite_i (s : State) (a : Word) (v : Byte) : (s.memWrite a v).i = s.i := rfl
@[simp] theorem memWrite_r (s : State) (a : Word) (v : Byte) : (s.memWrite a v).r = s.r := rfl
@[simp] theorem memWrite_memptr (s : State) (a : Word) (v : Byte) : (s.memWrite a v).memptr = s.memptr := rfl
@[simp] theorem memWrite_iff1 (s : State) (a : Word) (v : Byte) : (s.memWrite a v).iff1 = s.iff1 := rfl
@[simp] theorem memWrite_iff2 (s : State) (a : Word) (v : Byte) : (s.memWrite a v).iff2 = s.iff2 := rfl
@[simp] theorem memWrite_im (s : State) (a : Word) (v : Byte) : (s.memWrite a v).im = s.im := rfl
@[simp] theorem memWrite_halted (s : State) (a : Word) (v : Byte) : (s.memWrite a v).halted = s.halted := rfl
@[simp] theorem memWrite_intBlocked (s : State) (a : Word) (v : Byte) : (s.memWrite a v).intBlocked = s.intBlocked := rfl
@[simp] theorem memWrite_pendingIndex (s : State) (a : Word) (v : Byte) : (s.memWrite a v).pendingIndex = s.pendingIndex := rfl
@[simp] theorem memWrite_tStates (s : State) (a : Word) (v : Byte) : (s.memWrite a v).tStates = s.tStates + 3 := rfl
@[simp] theorem memWrite_resetRequested (s : State) (a : Word) (v : Byte) : (s.memWrite a v).resetRequested = s.resetRequested := rfl
@[simp] theorem memWrite_nmiRequested (s : State) (a : Word) (v : Byte) : (s.memWrite a v).nmiRequested = s.nmiRequested := rfl
@[simp] theorem memWrite_intRequested (s : State) (a : Word) (v : Byte) : (s.memWrite a v).intRequested = s.intRequested := rfl
@[simp] theorem memWrite_dataBus (s : State) (a : Word) (v : Byte) : (s.memWrite a v).dataBus = s.dataBus := rfl
@[simp] theorem memWrite_mem (s : State) (a : Word) (v : Byte) : (s.memWrite a v).mem = s.mem.write a.toNat v := rfl
@[simp] theorem memWrite_memIn (s : State) (a : Word) (v : Byte) : (s.memWrite a v).memIn = s.memIn := rfl
@[simp] theorem memWrite_portIn (s : State) (a : Word) (v : Byte) : (s.memWrite a v).portIn = s.portIn := rfl
@[simp] theorem memWrite_draws (s : State) (a : Word) (v : Byte) : (s.memWrite a v).draws = s.draws := rfl
@[simp] theorem memWrite_bus (s : State) (a : Word) (v : Byte) : (s.memWrite a v).bus = .writeMem a v :: s.bus := rfl

/-! ## portRead -/

@[simp] theorem portRead_af (s : State) (p : Word) : (s.portRead p).2.af = s.af := rfl
@[simp] theorem portRead_bc (s : State) (p : Word) : (s.portRead p).2.bc = s.bc := rfl
@[simp] theorem portRead_de (s : State) (p : Word) : (s.portRead p).2.de = s.de := rfl
@[simp] theorem portRead_hl (s : State) (p : Word) : (s.portRead p).2.hl = s.hl := rfl
@[simp] theorem portRead_afAlt (s : State) (p : Word) : (s.portRead p).2.afAlt = s.afAlt := rfl
@[simp] theorem portRead_bcAlt (s : State) (p : Word) : (s.portRead p).2.bcAlt = s.bcAlt := rfl
@[simp] theorem portRead_deAlt (s : State) (p : Word) : (s.portRead p).2.deAlt = s.deAlt := rfl
@[simp] theorem portRead_hlAlt (s : State) (p : Word) : (s.portRead p).2.hlAlt = s.hlAlt := rfl
@[simp] theorem portRead_ix (s : State) (p : Word) : (s.portRead p).2.ix = s.ix := rfl
@[simp] theorem portRead_iy (s : State) (p : Word) : (s.portRead p).2.iy = s.iy := rfl
@[simp] theorem portRead_sp (s : State) (p : Word) : (s.portRead p).2.sp = s.sp := rfl
@[simp] theorem portRead_pc (s : State) (p : Word) : (s.portRead p).2.pc = s.pc := rfl
@[simp] theorem portRead_i (s : State) (p : Word) : (s.portRead p).2.i = s.i := rfl
@[simp] theorem portRead_r (s : State) (p : Word) : (s.portRead p).2.r = s.r := rfl
@[simp] theorem portRead_memptr (s : State) (p : Word) : (s.portRead p).2.memptr = s.memptr := rfl
@[simp] theorem portRead_iff1 (s : State) (p : Word) : (s.portRead p).2.iff1 = s.iff1 := rfl
@[simp] theorem portRead_iff2 (s : State) (p : Word) : (s.portRead p).2.iff2 = s.iff2 := rfl
@[simp] theorem portRead_im (s : State) (p : Word) : (s.portRead p).2.im = s.im := rfl
@[simp] theorem portRead_halted (s : State) (p : Word) : (s.portRead p).2.halted = s.halted := rfl
@[simp] theorem portRead_intBlocked (s : State) (p : Word) : (s.portRead p).2.intBlocked = s.intBlocked := rfl
@[simp] theorem portRead_pendingIndex (s : State) (p : Word) : (s.portRead p).2.pendingIndex = s.pendingIndex := rfl
@[simp] theorem portRead_tStates (s : State) (p : Word) : (s.portRead p).2.tStates = s.tStates + 4 := rfl
@[simp] theorem portRead_resetRequested (s : State) (p : Word) : (s.portRead p).2.resetRequested = s.resetRequested := rfl
@[simp] theorem portRead_nmiRequested (s : State) (p : Word) : (s.portRead p).2.nmiRequested = s.nmiRequested := rfl
@[simp] theorem portRead_intRequested (s : State) (p : Word) : (s.portRead p).2.intRequested = s.intRequested := rfl
@[simp] theorem portRead_dataBus (s : State) (p : Word) : (s.portRead p).2.dataBus = s.dataBus := rfl
@[simp] theorem portRead_mem (s : State) (p : Word) : (s.portRead p).2.mem = s.mem := rfl
@[simp] theorem portRead_memIn (s : State) (p : Word) : (s.portRead p).2.memIn = s.memIn := rfl
@[simp] theorem portRead_portIn (s : State) (p : Word) : (s.portRead p).2.portIn = s.portIn.tail := rfl
@[simp] theorem portRead_draws (s : State) (p : Word) : (s.portRead p).2.draws = s.draws + 1 := rfl
@[simp] theorem portRead_bus (s : State) (p : Word) : (s.portRead p).2.bus = .readPort p :: s.bus := rfl

/-! ## portWrite -/

@[simp] theorem portWrite_af (s : State) (p : Word) (v : Byte) : (s.portWrite p v).af = s.af := rfl
@[simp] theorem portWrite_bc (s : State) (p : Word) (v : Byte) : (s.portWrite p v).bc = s.bc := rfl
@[simp] theorem portWrite_de (s : State) (p : Word) (v : Byte) : (s.portWrite p v).de = s.de := rfl
@[simp] theorem portWrite_hl (s : State) (p : Word) (v : Byte) : (s.portWrite p v).hl = s.hl := rfl
@[simp] theorem portWrite_afAlt (s : State) (p : Word) (v : Byte) : (s.portWrite p v).afAlt = s.afAlt := rfl
@[simp] theorem portWrite_bcAlt (s : State) (p : Word) (v : Byte) : (s.portWrite p v).bcAlt = s.bcAlt := rfl
@[simp] theorem portWrite_deAlt (s : State) (p : Word) (v : Byte) : (s.portWrite p v).deAlt = s.deAlt := rfl
@[simp] theorem portWrite_hlAlt (s : State) (p : Word) (v : Byte) : (s.portWrite p v).hlAlt = s.hlAlt := rfl
@[simp] theorem portWrite_ix (s : State) (p : Word) (v : Byte) : (s.portWrite p v).ix = s.ix := rfl
@[simp] theorem portWrite_iy (s : State) (p : Word) (v : Byte) : (s.portWrite p v).iy = s.iy := rfl
@[simp] theorem portWrite_sp (s : State) (p : Word) (v : Byte) : (s.portWrite p v).sp = s.sp := rfl
@[simp] theorem portWrite_pc (s : State) (p : Word) (v : Byte) : (s.portWrite p v).pc = s.pc := rfl
@[simp] theorem portWrite_i (s : State) (p : Word) (v : Byte) : (s.portWrite p v).i = s.i := rfl
@[simp] theorem portWrite_r (s : State) (p : Word) (v : Byte) : (s.portWrite p v).r = s.r := rfl
@[simp] theorem portWrite_memptr (s : State) (p : Word) (v : Byte) : (s.portWrite p v).memptr = s.memptr := rfl
@[simp] theorem portWrite_iff1 (s : State) (p : Word) (v : Byte) : (s.portWrite p v).iff1 = s.iff1 := rfl
@[simp] theorem portWrite_iff2 (s : State) (p : Word) (v : Byte) : (s.portWrite p v).iff2 = s.iff2 := rfl
@[simp] theorem portWrite_im (s : State) (p : Word) (v : Byte) : (s.portWrite p v).im = s.im := rfl
@[simp] theorem portWrite_halted (s : State) (p : Word) (v : Byte) : (s.portWrite p v).halted = s.halted := rfl
@[simp] theorem portWrite_intBlocked (s : State) (p : Word) (v : Byte) : (s.portWrite p v).intBlocked = s.intBlocked := rfl
@[simp] theorem portWrite_pendingIndex (s : State) (p : Word) (v : Byte) : (s.portWrite p v).pendingIndex = s.pendingIndex := rfl
@[simp] theorem portWrite_tStates (s : State) (p : Word) (v : Byte) : (s.portWrite p v).tStates = s.tStates + 4 := rfl
@[simp] theorem portWrite_resetRequested (s : State) (p : Word) (v : Byte) : (s.portWrite p v).resetRequested = s.resetRequested := rfl
@[simp] theorem portWrite_nmiRequested (s : State) (p : Word) (v : Byte) : (s.portWrite p v).nmiRequested = s.nmiRequested := rfl
@[simp] theorem portWrite_intRequested (s : State) (p : Word) (v : Byte) : (s.portWrite p v).intRequested = s.intRequested := rfl
@[simp] theorem portWrite_dataBus (s : State) (p : Word) (v : Byte) : (s.portWrite p v).dataBus = s.dataBus := rfl
@[simp] theorem portWrite_mem (s : State) (p : Word) (v : Byte) : (s.portWrite p v).mem = s.mem := rfl
@[simp] theorem portWrite_memIn (s : State) (p : Word) (v : Byte) : (s.portWrite p v).memIn = s.memIn := rfl
@[simp] theorem portWrite_portIn (s : State) (p : Word) (v : Byte) : (s.portWrite p v).portIn = s.portIn := rfl
@[simp] theorem portWrite_draws (s : State) (p : Word) (v : Byte) : (s.portWrite p v).draws = s.draws := rfl
@[simp] theorem portWrite_bus (s : State) (p : Word) (v : Byte) : (s.portWrite p v).bus = .writePort p v :: s.bus := rfl

/-! ## idle -/

@[simp] theorem idle_af (s : State) (a : Word) (n : Nat) : (s.idle a n).af = s.af := rfl
@[simp] theorem idle_bc (s : State) (a : Word) (n : Nat) : (s.idle a n).bc = s.bc := rfl
@[simp] theorem idle_de (s : State) (a : Word) (n : Nat) : (s.idle a n).de = s.de := rfl
@[simp] theorem idle_hl (s : State) (a : Word) (n : Nat) : (s.idle a n).hl = s.hl := rfl
@[simp] theorem idle_afAlt (s : State) (a : Word) (n : Nat) : (s.idle a n).afAlt = s.afAlt := rfl
@[simp] theorem idle_bcAlt (s : State) (a : Word) (n : Nat) : (s.idle a n).bcAlt = s.bcAlt := rfl
@[simp] theorem idle_deAlt (s : State) (a : Word) (n : Nat) : (s.idle a n).deAlt = s.deAlt := rfl
@[simp] theorem idle_hlAlt (s : State) (a : Word) (n : Nat) : (s.idle a n).hlAlt = s.hlAlt := rfl
@[simp] theorem idle_ix (s : State) (a : Word) (n : Nat) : (s.idle a n).ix = s.ix := rfl
@[simp] theorem idle_iy (s : State) (a : Word) (n : Nat) : (s.idle a n).iy = s.iy := rfl
@[simp] theorem idle_sp (s : State) (a : Word) (n : Nat) : (s.idle a n).sp = s.sp := rfl
@[simp] theorem idle_pc (s : State) (a : Word) (n : Nat) : (s.idle a n).pc = s.pc := rfl
@[simp] theorem idle_i (s : State) (a : Word) (n : Nat) : (s.idle a n).i = s.i := rfl
@[simp] theorem idle_r (s : State) (a : Word) (n : Nat) : (s.idle a n).r = s.r := rfl
@[simp] theorem idle_memptr (s : State) (a : Word) (n : Nat) : (s.idle a n).memptr = s.memptr := rfl
@[simp] theorem idle_iff1 (s : State) (a : Word) (n : Nat) : (s.idle a n).iff1 = s.iff1 := rfl
@[simp] theorem idle_iff2 (s : State) (a : Word) (n : Nat) : (s.idle a n).iff2 = s.iff2 := rfl
@[simp] theorem idle_im (s : State) (a : Word) (n : Nat) : (s.idle a n).im = s.im := rfl
@[simp] theorem idle_halted (s : State) (a : Word) (n : Nat) : (s.idle a n).halted = s.halted := rfl
@[simp] theorem idle_intBlocked (s : State) (a : Word) (n : Nat) : (s.idle a n).intBlocked = s.intBlocked := rfl
@[simp] theorem idle_pendingIndex (s : State) (a : Word) (n : Nat) : (s.idle a n).pendingIndex = s.pendingIndex := rfl
@[simp] theorem idle_tStates (s : State) (a : Word) (n : Nat) : (s.idle a n).tStates = s.tStates + n := rfl
@[simp] theorem idle_resetRequested (s : State) (a : Word) (n : Nat) : (s.idle a n).resetRequested = s.resetRequested := rfl
@[simp] theorem idle_nmiRequested (s : State) (a : Word) (n : Nat) : (s.idle a n).nmiRequested = s.nmiRequested := rfl
@[simp] theorem idle_intRequested (s : State) (a : Word) (n : Nat) : (s.idle a n).intRequested = s.intRequested := rfl
@[simp] theorem idle_dataBus (s : State) (a : Word) (n : Nat) : (s.idle a n).dataBus = s.dataBus := rfl
@[simp] theorem idle_mem (s : State) (a : Word) (n : Nat) : (s.idle a n).mem = s.mem := rfl
@[simp] theorem idle_memIn (s : State) (a : Word) (n : Nat) : (s.idle a n).memIn = s.memIn := rfl
@[simp] theorem idle_portIn (s : State) (a : Word) (n : Nat) : (s.idle a n).portIn = s.portIn := rfl
@[simp] theorem idle_draws (s : State) (a : Word) (n : Nat) : (s.idle a n).draws = s.draws := rfl
@[simp] theorem idle_bus (s : State) (a : Word) (n : Nat) : (s.idle a n).bus = List.replicate n (.noRequestMem a) ++ s.bus := rfl

/-! ## fetchM1 -/

@[simp] theorem fetchM1_af (s : State) : (s.fetchM1).af = s.af := rfl
@[simp] theorem fetchM1_bc (s : State) : (s.fetchM1).bc = s.bc := rfl
@[simp] theorem fetchM1_de (s : State) : (s.fetchM1).de = s.de := rfl
@[simp] theorem fetchM1_hl (s : State) : (s.fetchM1).hl = s.hl := rfl
@[simp] theorem fetchM1_afAlt (s : State) : (s.fetchM1).afAlt = s.afAlt := rfl
@[simp] theorem fetchM1_bcAlt (s : State) : (s.fetchM1).bcAlt = s.bcAlt := rfl
@[simp] theorem fetchM1_deAlt (s : State) : (s.fetchM1).deAlt = s.deAlt := rfl
@[simp] theorem fetchM1_hlAlt (s : State) : (s.fetchM1).hlAlt = s.hlAlt := rfl
@[simp] theorem fetchM1_ix (s : State) : (s.fetchM1).ix = s.ix := rfl
@[simp] theorem fetchM1_iy (s : State) : (s.fetchM1).iy = s.iy := rfl
@[simp] theorem fetchM1_sp (s : State) : (s.fetchM1).sp = s.sp := rfl
@[simp] theorem fetchM1_pc (s : State) : (s.fetchM1).pc = s.pc + 1 := rfl
@[simp] theorem fetchM1_i (s : State) : (s.fetchM1).i = s.i := rfl
@[simp] theorem fetchM1_r (s : State) : (s.fetchM1).r = refreshInc s.r := rfl
@[simp] theorem fetchM1_memptr (s : State) : (s.fetchM1).memptr = s.memptr := rfl
@[simp] theorem fetchM1_iff1 (s : State) : (s.fetchM1).iff1 = s.iff1 := rfl
@[simp] theorem fetchM1_iff2 (s : State) : (s.fetchM1).iff2 = s.iff2 := rfl
@[simp] theorem fetchM1_im (s : State) : (s.fetchM1).im = s.im := rfl
@[simp] theorem fetchM1_halted (s : State) : (s.fetchM1).halted = s.halted := rfl
@[simp] theorem fetchM1_intBlocked (s : State) : (s.fetchM1).intBlocked = s.intBlocked := rfl
@[simp] theorem fetchM1_pendingIndex (s : State) : (s.fetchM1).pendingIndex = s.pendingIndex := rfl
@[simp] theorem fetchM1_tStates (s : State) : (s.fetchM1).tStates = s.tStates + 4 := rfl
@[simp] theorem fetchM1_resetRequested (s : State) : (s.fetchM1).resetRequested = s.resetRequested := rfl
@[simp] theorem fetchM1_nmiRequested (s : State) : (s.fetchM1).nmiRequested = s.nmiRequested := rfl
@[simp] theorem fetchM1_intRequested (s : State) : (s.fetchM1).intRequested = s.intRequested := rfl
@[simp] theorem fetchM1_dataBus (s : State) : (s.fetchM1).dataBus = s.dataBus := rfl
@[simp] theorem fetchM1_mem (s : State) : (s.fetchM1).mem = s.mem := rfl
@[simp] theorem fetchM1_memIn (s : State) : (s.fetchM1).memIn = s.memIn.drop 1 := rfl
@[simp] theorem fetchM1_portIn (s : State) : (s.fetchM1).portIn = s.portIn := rfl
@[simp] theorem fetchM1_draws (s : State) : (s.fetchM1).draws = s.draws := rfl
@[simp] theorem fetchM1_bus (s : State) : (s.fetchM1).bus = .readFetch s.pc :: s.bus := rfl

/-! ## imm8 -/

@[simp] theorem imm8_af (s : State) : (s.imm8).af = s.af := rfl
@[simp] theorem imm8_bc (s : State) : (s.imm8).bc = s.bc := rfl
@[simp] theorem imm8_de (s : State) : (s.imm8).de = s.de := rfl
@[simp] theorem imm8_hl (s : State) : (s.imm8).hl = s.hl := rfl
@[simp] theorem imm8_afAlt (s : State) : (s.imm8).afAlt = s.afAlt := rfl
@[simp] theorem imm8_bcAlt (s : State) : (s.imm8).bcAlt = s.bcAlt := rfl
@[simp] theorem imm8_deAlt (s : State) : (s.imm8).deAlt = s.deAlt := rfl
@[simp] theorem imm8_hlAlt (s : State) : (s.imm8).hlAlt = s.hlAlt := rfl
@[simp] theorem imm8_ix (s : State) : (s.imm8).ix = s.ix := rfl
@[simp] theorem imm8_iy (s : State) : (s.imm8).iy = s.iy := rfl
@[simp] theorem imm8_sp (s : State) : (s.imm8).sp = s.sp := rfl
@[simp] theorem imm8_pc (s : State) : (s.imm8).pc = s.pc + 1 := rfl
@[simp] theorem imm8_i (s : State) : (s.imm8).i = s.i := rfl
@[simp] theorem imm8_r (s : State) : (s.imm8).r = s.r := rfl
@[simp] theorem imm8_memptr (s : State) : (s.imm8).memptr = s.memptr := rfl
@[simp] theorem imm8_iff1 (s : State) : (s.imm8).iff1 = s.iff1 := rfl
@[simp] theorem imm8_iff2 (s : State) : (s.imm8).iff2 = s.iff2 := rfl
@[simp] theorem imm8_im (s : State) : (s.imm8).im = s.im := rfl
@[simp] theorem imm8_halted (s : State) : (s.imm8).halted = s.halted := rfl
@[simp] theorem imm8_intBlocked (s : State) : (s.imm8).intBlocked = s.intBlocked := rfl
@[simp] theorem imm8_pendingIndex (s : State) : (s.imm8).pendingIndex = s.pendingIndex := rfl
@[simp] theorem imm8_tStates (s : State) : (s.imm8).tStates = s.tStates + 3 := rfl
@[simp] theorem imm8_resetRequested (s : State) : (s.imm8).resetRequested = s.resetRequested := rfl
@[simp] theorem imm8_nmiRequested (s : State) : (s.imm8).nmiRequested = s.nmiRequested := rfl
@[simp] theorem imm8_intRequested (s : State) : (s.imm8).intRequested = s.intRequested := rfl
@[simp] theorem imm8_dataBus (s : State) : (s.imm8).dataBus = s.dataBus := rfl
@[simp] theorem imm8_mem (s : State) : (s.imm8).mem = s.mem := rfl
@[simp] theorem imm8_memIn (s : State) : (s.imm8).memIn = s.memIn.drop 1 := rfl
@[simp] theorem imm8_portIn (s : State) : (s.imm8).portIn = s.portIn := rfl
@[simp] theorem imm8_draws (s : State) : (s.imm8).draws = s.draws := rfl
@[simp] theorem imm8_bus (s : State) : (s.imm8).bus = .readMem s.pc :: s.bus := rfl

/-! ## goTo -/

@[simp] theorem goTo_af (s : State) (a : Word) : (s.goTo a).af = s.af := rfl
@[simp] theorem goTo_bc (s : State) (a : Word) : (s.goTo a).bc = s.bc := rfl
@[simp] theorem goTo_de (s : State) (a : Word) : (s.goTo a).de = s.de := rfl
@[simp] theorem goTo_hl (s : State) (a : Word) : (s.goTo a).hl = s.hl := rfl
@[simp] theorem goTo_afAlt (s : State) (a : Word) : (s.goTo a).afAlt = s.afAlt := rfl
@[simp] theorem goTo_bcAlt (s : State) (a : Word) : (s.goTo a).bcAlt = s.bcAlt := rfl
@[simp] theorem goTo_deAlt (s : State) (a : Word) : (s.goTo a).deAlt = s.deAlt := rfl
@[simp] theorem goTo_hlAlt (s : State) (a : Word) : (s.goTo a).hlAlt = s.hlAlt := rfl
@[simp] theorem goTo_ix (s : State) (a : Word) : (s.goTo a).ix = s.ix := rfl
@[simp] theorem goTo_iy (s : State) (a : Word) : (s.goTo a).iy = s.iy := rfl
@[simp] theorem goTo_sp (s : State) (a : Word) : (s.goTo a).sp = s.sp := rfl
@[simp] theorem goTo_pc (s : State) (a : Word) : (s.goTo a).pc = a := rfl
@[simp] theorem goTo_i (s : State) (a : Word) : (s.goTo a).i = s.i := rfl
@[simp] theorem goTo_r (s : State) (a : Word) : (s.goTo a).r = s.r := rfl
@[simp] theorem goTo_memptr (s : State) (a : Word) : (s.goTo a).memptr = a := rfl
@[simp] theorem goTo_iff1 (s : State) (a : Word) : (s.goTo a).iff1 = s.iff1 := rfl
@[simp] theorem goTo_iff2 (s : State) (a : Word) : (s.goTo a).iff2 = s.iff2 := rfl
@[simp] theorem goTo_im (s : State) (a : Word) : (s.goTo a).im = s.im := rfl
@[simp] theorem goTo_halted (s : State) (a : Word) : (s.goTo a).halted = s.halted := rfl
@[simp] theorem goTo_intBlocked (s : State) (a : Word) : (s.goTo a).intBlocked = s.intBlocked := rfl
@[simp] theorem goTo_pendingIndex (s : State) (a : Word) : (s.goTo a).pendingIndex = s.pendingIndex := rfl
@[simp] theorem goTo_tStates (s : State) (a : Word) : (s.goTo a).tStates = s.tStates := rfl
@[simp] theorem goTo_resetRequested (s : State) (a : Word) : (s.goTo a).resetRequested = s.resetRequested := rfl
@[simp] theorem goTo_nmiRequested (s : State) (a : Word) : (s.goTo a).nmiRequested = s.nmiRequested := rfl
@[simp] theorem goTo_intRequested (s : State) (a : Word) : (s.goTo a).intRequested = s.intRequested := rfl
@[simp] theorem goTo_dataBus (s : State) (a : Word) : (s.goTo a).dataBus = s.dataBus := rfl
@[simp] theorem goTo_mem (s : State) (a : Word) : (s.goTo a).mem = s.mem := rfl
@[simp] theorem goTo_memIn (s : State) (a : Word) : (s.goTo a).memIn = s.memIn := rfl
@[simp] theorem goTo_portIn (s : State) (a : Word) : (s.goTo a).portIn = s.portIn := rfl
@[simp] theorem goTo_draws (s : State) (a : Word) : (s.goTo a).draws = s.draws := rfl
@[simp] theorem goTo_bus (s : State) (a : Word) : (s.goTo a).bus = s.bus := rfl

/-! ## setReg -/

@[simp] theorem setReg_afAlt (s : State) (r : Reg8) (v : Byte) : (s.setReg r v).afAlt = s.afAlt := by cases r <;> rfl
@[simp] theorem setReg_bcAlt (s : State) (r : Reg8) (v : Byte) : (s.setReg r v).bcAlt = s.bcAlt := by cases r <;> rfl
@[simp] theorem setReg_deAlt (s : State) (r : Reg8) (v : Byte) : (s.setReg r v).deAlt = s.deAlt := by cases r <;> rfl
@[simp] theorem setReg_hlAlt (s : State) (r : Reg8) (v : Byte) : (s.setReg r v).hlAlt = s.hlAlt := by cases r <;> rfl
@[simp] theorem setReg_ix (s : State) (r : Reg8) (v : Byte) : (s.setReg r v).ix = s.ix := by cases r <;> rfl
@[simp] theorem setReg_iy (s : State) (r : Reg8) (v : Byte) : (s.setReg r v).iy = s.iy := by cases r <;> rfl
@[simp] theorem setReg_sp (s : State) (r : Reg8) (v : Byte) : (s.setReg r v).sp = s.sp := by cases r <;> rfl
@[simp] theorem setReg_pc (s : State) (r : Reg8) (v : Byte) : (s.setReg r v).pc = s.pc := by cases r <;> rfl
@[simp] theorem setReg_i (s : State) (r : Reg8) (v : Byte) : (s.setReg r v).i = s.i := by cases r <;> rfl
@[simp] theorem setReg_r (s : State) (r : Reg8) (v : Byte) : (s.setReg r v).r = s.r := by cases r <;> rfl
@[simp] theorem setReg_memptr (s : State) (r : Reg8) (v : Byte) : (s.setReg r v).memptr = s.memptr := by cases r <;> rfl
@[simp] theorem setReg_iff1 (s : State) (r : Reg8) (v : Byte) : (s.setReg r v).iff1 = s.iff1 := by cases r <;> rfl
@[simp] theorem setReg_iff2 (s : State) (r : Reg8) (v : Byte) : (s.setReg r v).iff2 = s.iff2 := by cases r <;> rfl
@[simp] theorem setReg_im (s : State) (r : Reg8) (v : Byte) : (s.setReg r v).im = s.im := by cases r <;> rfl
@[simp] theorem setReg_halted (s : State) (r : Reg8) (v : Byte) : (s.setReg r v).halted = s.halted := by cases r <;> rfl
@[simp] theorem setReg_intBlocked (s : State) (r : Reg8) (v : Byte) : (s.setReg r v).intBlocked = s.intBlocked := by cases r <;> rfl
@[simp] theorem setReg_pendingIndex (s : State) (r : Reg8) (v : Byte) : (s.setReg r v).pendingIndex = s.pendingIndex := by cases r <;> rfl
@[simp] theorem setReg_tStates (s : State) (r : Reg8) (v : Byte) : (s.setReg r v).tStates = s.tStates := by cases r <;> rfl
@[simp] theorem setReg_resetRequested (s : State) (r : Reg8) (v : Byte) : (s.setReg r v).resetRequested = s.resetRequested := by cases r <;> rfl
@[simp] theorem setReg_nmiRequested (s : State) (r : Reg8) (v : Byte) : (s.setReg r v).nmiRequested = s.nmiRequested := by cases r <;> rfl
@[simp] theorem setReg_intRequested (s : State) (r : Reg8) (v : Byte) : (s.setReg r v).intRequested = s.intRequested := by cases r <;> rfl
@[simp] theorem setReg_dataBus (s : State) (r : Reg8) (v : Byte) : (s.setReg r v).dataBus = s.dataBus := by cases r <;> rfl
@[simp] theorem setReg_mem (s : State) (r : Reg8) (v : Byte) : (s.setReg r v).mem = s.mem := by cases r <;> rfl
@[simp] theorem setReg_memIn (s : State) (r : Reg8) (v : Byte) : (s.setReg r v).memIn = s.memIn := by cases r <;> rfl
@[simp] theorem setReg_portIn (s : State) (r : Reg8) (v : Byte) : (s.setReg r v).portIn = s.portIn := by cases r <;> rfl
@[simp] theorem setReg_draws (s : State) (r : Reg8) (v : Byte) : (s.setReg r v).draws = s.draws := by cases r <;> rfl
@[simp] theorem setReg_bus (s : State) (r : Reg8) (v : Byte) : (s.setReg r v).bus = s.bus := by cases r <;> rfl

/-! ## setPairSp -/

@[simp] theorem setPairSp_af (s : State) (p : PairSp) (v : Word) : (s.setPairSp p v).af = s.af := by cases p <;> rfl
@[simp] theorem setPairSp_afAlt (s : State) (p : PairSp) (v : Word) : (s.setPairSp p v).afAlt = s.afAlt := by cases p <;> rfl
@[simp] theorem setPairSp_bcAlt (s : State) (p : PairSp) (v : Word) : (s.setPairSp p v).bcAlt = s.bcAlt := by cases p <;> rfl
@[simp] theorem setPairSp_deAlt (s : State) (p : PairSp) (v : Word) : (s.setPairSp p v).deAlt = s.deAlt := by cases p <;> rfl
@[simp] theorem setPairSp_hlAlt (s : State) (p : PairSp) (v : Word) : (s.setPairSp p v).hlAlt = s.hlAlt := by cases p <;> rfl
@[simp] theorem setPairSp_ix (s : State) (p : PairSp) (v : Word) : (s.setPairSp p v).ix = s.ix := by cases p <;> rfl
@[simp] theorem setPairSp_iy (s : State) (p : PairSp) (v : Word) : (s.setPairSp p v).iy = s.iy := by cases p <;> rfl
@[simp] theorem setPairSp_pc (s : State) (p : PairSp) (v : Word) : (s.setPairSp p v).pc = s.pc := by cases p <;> rfl
@[simp] theorem setPairSp_i (s : State) (p : PairSp) (v : Word) : (s.setPairSp p v).i = s.i := by cases p <;> rfl
@[simp] theorem setPairSp_r (s : State) (p : PairSp) (v : Word) : (s.setPairSp p v).r = s.r := by cases p <;> rfl
@[simp] theorem setPairSp_memptr (s : State) (p : PairSp) (v : Word) : (s.setPairSp p v).memptr = s.memptr := by cases p <;> rfl
@[simp] theorem setPairSp_iff1 (s : State) (p : PairSp) (v : Word) : (s.setPairSp p v).iff1 = s.iff1 := by cases p <;> rfl
@[simp] theorem setPairSp_iff2 (s : State) (p : PairSp) (v : Word) : (s.setPairSp p v).iff2 = s.iff2 := by cases p <;> rfl
@[simp] theorem setPairSp_im (s : State) (p : PairSp) (v : Word) : (s.setPairSp p v).im = s.im := by cases p <;> rfl
@[simp] theorem setPairSp_halted (s : State) (p : PairSp) (v : Word) : (s.setPairSp p v).halted = s.halted := by cases p <;> rfl
@[simp] theorem setPairSp_intBlocked (s : State) (p : PairSp) (v : Word) : (s.setPairSp p v).intBlocked = s.intBlocked := by cases p <;> rfl
@[simp] theorem setPairSp_pendingIndex (s : State) (p : PairSp) (v : Word) : (s.setPairSp p v).pendingIndex = s.pendingIndex := by cases p <;> rfl
@[simp] theorem setPairSp_tStates (s : State) (p : PairSp) (v : Word) : (s.setPairSp p v).tStates = s.tStates := by cases p <;> rfl
@[simp] theorem setPairSp_resetRequested (s : State) (p : PairSp) (v : Word) : (s.setPairSp p v).resetRequested = s.resetRequested := by cases p <;> rfl
@[simp] theorem setPairSp_nmiRequested (s : State) (p : PairSp) (v : Word) : (s.setPairSp p v).nmiRequested = s.nmiRequested := by cases p <;> rfl
@[simp] theorem setPairSp_intRequested (s : State) (p : PairSp) (v : Word) : (s.setPairSp p v).intRequested = s.intRequested := by cases p <;> rfl
@[simp] theorem setPairSp_dataBus (s : State) (p : PairSp) (v : Word) : (s.setPairSp p v).dataBus = s.dataBus := by cases p <;> rfl
@[simp] theorem setPairSp_mem (s : State) (p : PairSp) (v : Word) : (s.setPairSp p v).mem = s.mem := by cases p <;> rfl
@[simp] theorem setPairSp_memIn (s : State) (p : PairSp) (v : Word) : (s.setPairSp p v).memIn = s.memIn := by cases p <;> rfl
@[simp] theorem setPairSp_portIn (s : State) (p : PairSp) (v : Word) : (s.setPairSp p v).portIn = s.portIn := by cases p <;> rfl
@[simp] theorem setPairSp_draws (s : State) (p : PairSp) (v : Word) : (s.setPairSp p v).draws = s.draws := by cases p <;> rfl
@[simp] theorem setPairSp_bus (s : State) (p : PairSp) (v : Word) : (s.setPairSp p v).bus = s.bus := by cases p <;> rfl

/-! ## setPairAf -/

@[simp] theorem setPairAf_afAlt (s : State) (p : PairAf) (v : Word) : (s.setPairAf p v).afAlt = s.afAlt := by cases p <;> rfl
@[simp] theorem setPairAf_bcAlt (s : State) (p : PairAf) (v : Word) : (s.setPairAf p v).bcAlt = s.bcAlt := by cases p <;> rfl
@[simp] theorem setPairAf_deAlt (s : State) (p : PairAf) (v : Word) : (s.setPairAf p v).deAlt = s.deAlt := by cases p <;> rfl
@[simp] theorem setPairAf_hlAlt (s : State) (p : PairAf) (v : Word) : (s.setPairAf p v).hlAlt = s.hlAlt := by cases p <;> rfl
@[simp] theorem setPairAf_ix (s : State) (p : PairAf) (v : Word) : (s.setPairAf p v).ix = s.ix := by cases p <;> rfl
@[simp] theorem setPairAf_iy (s : State) (p : PairAf) (v : Word) : (s.setPairAf p v).iy = s.iy := by cases p <;> rfl
@[simp] theorem setPairAf_sp (s : State) (p : PairAf) (v : Word) : (s.setPairAf p v).sp = s.sp := by cases p <;> rfl
@[simp] theorem setPairAf_pc (s : State) (p : PairAf) (v : Word) : (s.setPairAf p v).pc = s.pc := by cases p <;> rfl
@[simp] theorem setPairAf_i (s : State) (p : PairAf) (v : Word) : (s.setPairAf p v).i = s.i := by cases p <;> rfl
@[simp] theorem setPairAf_r (s : State) (p : PairAf) (v : Word) : (s.setPairAf p v).r = s.r := by cases p <;> rfl
@[simp] theorem setPairAf_memptr (s : State) (p : PairAf) (v : Word) : (s.setPairAf p v).memptr = s.memptr := by cases p <;> rfl
@[simp] theorem setPairAf_iff1 (s : State) (p : PairAf) (v : Word) : (s.setPairAf p v).iff1 = s.iff1 := by cases p <;> rfl
@[simp] theorem setPairAf_iff2 (s : State) (p : PairAf) (v : Word) : (s.setPairAf p v).iff2 = s.iff2 := by cases p <;> rfl
@[simp] theorem setPairAf_im (s : State) (p : PairAf) (v : Word) : (s.setPairAf p v).im = s.im := by cases p <;> rfl
@[simp] theorem setPairAf_halted (s : State) (p : PairAf) (v : Word) : (s.setPairAf p v).halted = s.halted := by cases p <;> rfl
@[simp] theorem setPairAf_intBlocked (s : State) (p : PairAf) (v : Word) : (s.setPairAf p v).intBlocked = s.intBlocked := by cases p <;> rfl
@[simp] theorem setPairAf_pendingIndex (s : State) (p : PairAf) (v : Word) : (s.setPairAf p v).pendingIndex = s.pendingIndex := by cases p <;> rfl
@[simp] theorem setPairAf_tStates (s : State) (p : PairAf) (v : Word) : (s.setPairAf p v).tStates = s.tStates := by cases p <;> rfl
@[simp] theorem setPairAf_resetRequested (s : State) (p : PairAf) (v : Word) : (s.setPairAf p v).resetRequested = s.resetRequested := by cases p <;> rfl
@[simp] theorem setPairAf_nmiRequested (s : State) (p : PairAf) (v : Word) : (s.setPairAf p v).nmiRequested = s.nmiRequested := by cases p <;> rfl
@[simp] theorem setPairAf_intRequested (s : State) (p : PairAf) (v : Word) : (s.setPairAf p v).intRequested = s.intRequested := by cases p <;> rfl
@[simp] theorem setPairAf_dataBus (s : State) (p : PairAf) (v : Word) : (s.setPairAf p v).dataBus = s.dataBus := by cases p <;> rfl
@[simp] theorem setPairAf_mem (s : State) (p : PairAf) (v : Word) : (s.setPairAf p v).mem = s.mem := by cases p <;> rfl
@[simp] theorem setPairAf_memIn (s : State) (p : PairAf) (v : Word) : (s.setPairAf p v).memIn = s.memIn := by cases p <;> rfl
@[simp] theorem setPairAf_portIn (s : State) (p : PairAf) (v : Word) : (s.setPairAf p v).portIn = s.portIn := by cases p <;> rfl
@[simp] theorem setPairAf_draws (s : State) (p : PairAf) (v : Word) : (s.setPairAf p v).draws = s.draws := by cases p <;> rfl
@[simp] theorem setPairAf_bus (s : State) (p : PairAf) (v : Word) : (s.setPairAf p v).bus = s.bus := by cases p <;> rfl

/-! ## setIdx -/

@[simp] theorem setIdx_af (s : State) (x : IdxReg) (v : Word) : (s.setIdx x v).af = s.af := by cases x <;> rfl
@[simp] theorem setIdx_bc (s : State) (x : IdxReg) (v : Word) : (s.setIdx x v).bc = s.bc := by cases x <;> rfl
@[simp] theorem setIdx_de (s : State) (x : IdxReg) (v : Word) : (s.setIdx x v).de = s.de := by cases x <;> rfl
@[simp] theorem setIdx_hl (s : State) (x : IdxReg) (v : Word) : (s.setIdx x v).hl = s.hl := by cases x <;> rfl
@[simp] theorem setIdx_afAlt (s : State) (x : IdxReg) (v : Word) : (s.setIdx x v).afAlt = s.afAlt := by cases x <;> rfl
@[simp] theorem setIdx_bcAlt (s : State) (x : IdxReg) (v : Word) : (s.setIdx x v).bcAlt = s.bcAlt := by cases x <;> rfl
@[simp] theorem setIdx_deAlt (s : State) (x : IdxReg) (v : Word) : (s.setIdx x v).deAlt = s.deAlt := by cases x <;> rfl
@[simp] theorem setIdx_hlAlt (s : State) (x : IdxReg) (v : Word) : (s.setIdx x v).hlAlt = s.hlAlt := by cases x <;> rfl
@[simp] theorem setIdx_sp (s : State) (x : IdxReg) (v : Word) : (s.setIdx x v).sp = s.sp := by cases x <;> rfl
@[simp] theorem setIdx_pc (s : State) (x : IdxReg) (v : Word) : (s.setIdx x v).pc = s.pc := by cases x <;> rfl
@[simp] theorem setIdx_i (s : State) (x : IdxReg) (v : Word) : (s.setIdx x v).i = s.i := by cases x <;> rfl
@[simp] theorem setIdx_r (s : State) (x : IdxReg) (v : Word) : (s.setIdx x v).r = s.r := by cases x <;> rfl
@[simp] theorem setIdx_memptr (s : State) (x : IdxReg) (v : Word) : (s.setIdx x v).memptr = s.memptr := by cases x <;> rfl
@[simp] theorem setIdx_iff1 (s : State) (x : IdxReg) (v : Word) : (s.setIdx x v).iff1 = s.iff1 := by cases x <;> rfl
@[simp] theorem setIdx_iff2 (s : State) (x : IdxReg) (v : Word) : (s.setIdx x v).iff2 = s.iff2 := by cases x <;> rfl
@[simp] theorem setIdx_im (s : State) (x : IdxReg) (v : Word) : (s.setIdx x v).im = s.im := by cases x <;> rfl
@[simp] theorem setIdx_halted (s : State) (x : IdxReg) (v : Word) : (s.setIdx x v).halted = s.halted := by cases x <;> rfl
@[simp] theorem setIdx_intBlocked (s : State) (x : IdxReg) (v : Word) : (s.setIdx x v).intBlocked = s.intBlocked := by cases x <;> rfl
@[simp] theorem setIdx_pendingIndex (s : State) (x : IdxReg) (v : Word) : (s.setIdx x v).pendingIndex = s.pendingIndex := by cases x <;> rfl
@[simp] theorem setIdx_tStates (s : State) (x : IdxReg) (v : Word) : (s.setIdx x v).tStates = s.tStates := by cases x <;> rfl
@[simp] theorem setIdx_resetRequested (s : State) (x : IdxReg) (v : Word) : (s.setIdx x v).resetRequested = s.resetRequested := by cases x <;> rfl
@[simp] theorem setIdx_nmiRequested (s : State) (x : IdxReg) (v : Word) : (s.setIdx x v).nmiRequested = s.nmiRequested := by cases x <;> rfl
@[simp] theorem setIdx_intRequested (s : State) (x : IdxReg) (v : Word) : (s.setIdx x v).intRequested = s.intRequested := by cases x <;> rfl
@[simp] theorem setIdx_dataBus (s : State) (x : IdxReg) (v : Word) : (s.setIdx x v).dataBus = s.dataBus := by cases x <;> rfl
@[simp] theorem setIdx_mem (s : State) (x : IdxReg) (v : Word) : (s.setIdx x v).mem = s.mem := by cases x <;> rfl
@[simp] theorem setIdx_memIn (s : State) (x : IdxReg) (v : Word) : (s.setIdx x v).memIn = s.memIn := by cases x <;> rfl
@[simp] theorem setIdx_portIn (s : State) (x : IdxReg) (v : Word) : (s.setIdx x v).portIn = s.portIn := by cases x <;> rfl
@[simp] theorem setIdx_draws (s : State) (x : IdxReg) (v : Word) : (s.setIdx x v).draws = s.draws := by cases x <;> rfl
@[simp] theorem setIdx_bus (s : State) (x : IdxReg) (v : Word) : (s.setIdx x v).bus = s.bus := by cases x <;> rfl

/-! ## setHalf -/

@[simp] theorem setHalf_af (s : State) (x : IdxReg) (h : Half) (v : Byte) : (s.setHalf x h v).af = s.af := by cases x <;> cases h <;> rfl
@[simp] theorem setHalf_bc (s : State) (x : IdxReg) (h : Half) (v : Byte) : (s.setHalf x h v).bc = s.bc := by cases x <;> cases h <;> rfl
@[simp] theorem setHalf_de (s : State) (x : IdxReg) (h : Half) (v : Byte) : (s.setHalf x h v).de = s.de := by cases x <;> cases h <;> rfl
@[simp] theorem setHalf_hl (s : State) (x : IdxReg) (h : Half) (v : Byte) : (s.setHalf x h v).hl = s.hl := by cases x <;> cases h <;> rfl
@[simp] theorem setHalf_afAlt (s : State) (x : IdxReg) (h : Half) (v : Byte) : (s.setHalf x h v).afAlt = s.afAlt := by cases x <;> cases h <;> rfl
@[simp] theorem setHalf_bcAlt (s : State) (x : IdxReg) (h : Half) (v : Byte) : (s.setHalf x h v).bcAlt = s.bcAlt := by cases x <;> cases h <;> rfl
@[simp] theorem setHalf_deAlt (s : State) (x : IdxReg) (h : Half) (v : Byte) : (s.setHalf x h v).deAlt = s.deAlt := by cases x <;> cases h <;> rfl
@[simp] theorem setHalf_hlAlt (s : State) (x : IdxReg) (h : Half) (v : Byte) : (s.setHalf x h v).hlAlt = s.hlAlt := by cases x <;> cases h <;> rfl
@[simp] theorem setHalf_sp (s : State) (x : IdxReg) (h : Half) (v : Byte) : (s.setHalf x h v).sp = s.sp := by cases x <;> cases h <;> rfl
@[simp] theorem setHalf_pc (s : State) (x : IdxReg) (h : Half) (v : Byte) : (s.setHalf x h v).pc = s.pc := by cases x <;> cases h <;> rfl
@[simp] theorem setHalf_i (s : State) (x : IdxReg) (h : Half) (v : Byte) : (s.setHalf x h v).i = s.i := by cases x <;> cases h <;> rfl
@[simp] theorem setHalf_r (s : State) (x : IdxReg) (h : Half) (v : Byte) : (s.setHalf x h v).r = s.r := by cases x <;> cases h <;> rfl
@[simp] theorem setHalf_memptr (s : State) (x : IdxReg) (h : Half) (v : Byte) : (s.setHalf x h v).memptr = s.memptr := by cases x <;> cases h <;> rfl
@[simp] theorem setHalf_iff1 (s : State) (x : IdxReg) (h : Half) (v : Byte) : (s.setHalf x h v).iff1 = s.iff1 := by cases x <;> cases h <;> rfl
@[simp] theorem setHalf_iff2 (s : State) (x : IdxReg) (h : Half) (v : Byte) : (s.setHalf x h v).iff2 = s.iff2 := by cases x <;> cases h <;> rfl
@[simp] theorem setHalf_im (s : State) (x : IdxReg) (h : Half) (v : Byte) : (s.setHalf x h v).im = s.im := by cases x <;> cases h <;> rfl
@[simp] theorem setHalf_halted (s : State) (x : IdxReg) (h : Half) (v : Byte) : (s.setHalf x h v).halted = s.halted := by cases x <;> cases h <;> rfl
@[simp] theorem setHalf_intBlocked (s : State) (x : IdxReg) (h : Half) (v : Byte) : (s.setHalf x h v).intBlocked = s.intBlocked := by cases x <;> cases h <;> rfl
@[simp] theorem setHalf_pendingIndex (s : State) (x : IdxReg) (h : Half) (v : Byte) : (s.setHalf x h v).pendingIndex = s.pendingIndex := by cases x <;> cases h <;> rfl
@[simp] theorem setHalf_tStates (s : State) (x : IdxReg) (h : Half) (v : Byte) : (s.setHalf x h v).tStates = s.tStates := by cases x <;> cases h <;> rfl
@[simp] theorem setHalf_resetRequested (s : State) (x : IdxReg) (h : Half) (v : Byte) : (s.setHalf x h v).resetRequested = s.resetRequested := by cases x <;> cases h <;> rfl
@[simp] theorem setHalf_nmiRequested (s : State) (x : IdxReg) (h : Half) (v : Byte) : (s.setHalf x h v).nmiRequested = s.nmiRequested := by cases x <;> cases h <;> rfl
@[simp] theorem setHalf_intRequested (s : State) (x : IdxReg) (h : Half) (v : Byte) : (s.setHalf x h v).intRequested = s.intRequested := by cases x <;> cases h <;> rfl
@[simp] theorem setHalf_dataBus (s : State) (x : IdxReg) (h : Half) (v : Byte) : (s.setHalf x h v).dataBus = s.dataBus := by cases x <;> cases h <;> rfl
@[simp] theorem setHalf_mem (s : State) (x : IdxReg) (h : Half) (v : Byte) : (s.setHalf x h v).mem = s.mem := by cases x <;> cases h <;> rfl
@[simp] theorem setHalf_memIn (s : State) (x : IdxReg) (h : Half) (v : Byte) : (s.setHalf x h v).memIn = s.memIn := by cases x <;> cases h <;> rfl
@[simp] theorem setHalf_portIn (s : State) (x : IdxReg) (h : Half) (v : Byte) : (s.setHalf x h v).portIn = s.portIn := by cases x <;> cases h <;> rfl
@[simp] theorem setHalf_draws (s : State) (x : IdxReg) (h : Half) (v : Byte) : (s.setHalf x h v).draws = s.draws := by cases x <;> cases h <;> rfl
@[simp] theorem setHalf_bus (s : State) (x : IdxReg) (h : Half) (v : Byte) : (s.setHalf x h v).bus = s.bus := by cases x <;> cases h <;> rfl

/-! ## What the accessors read after an update that does not touch them -/

@[simp] theorem setA_half (s : State) (v : Byte) (y : IdxReg) (k : Half) : (s.setA v).half y k = s.half y k := rfl
@[simp] theorem setA_idx (s : State) (v : Byte) (y : IdxReg) : (s.setA v).idx y = s.idx y := rfl
@[simp] theorem setA_pairSp (s : State) (v : Byte) (q : PairSp) : (s.setA v).pairSp q = s.pairSp q := rfl
@[simp] theorem setA_pairIdx (s : State) (v : Byte) (y : IdxReg) (q : PairIdx) : (s.setA v).pairIdx y q = s.pairIdx y q := rfl
@[simp] theorem setA_byteAt (s : State) (v : Byte) (b : Word) : (s.setA v).byteAt b = s.byteAt b := rfl
@[simp] theorem setA_memAnswer (s : State) (v : Byte) (k : Nat) (b : Word) : (s.setA v).memAnswer k b = s.memAnswer k b := rfl
@[simp] theorem setA_portByte (s : State) (v : Byte) (q : Word) : (s.setA v).portByte q = s.portByte q := rfl
@[simp] theorem setA_irAddr (s : State) (v : Byte) : (s.setA v).irAddr = s.irAddr := rfl
@[simp] theorem setA_idxAddr (s : State) (v : Byte) (y : IdxReg) (d : Byte) : (s.setA v).idxAddr y d = s.idxAddr y d := rfl
@[simp] theorem setF_half (s : State) (v : Byte) (y : IdxReg) (k : Half) : (s.setF v).half y k = s.half y k := rfl
@[simp] theorem setF_idx (s : State) (v : Byte) (y : IdxReg) : (s.setF v).idx y = s.idx y := rfl
@[simp] theorem setF_pairSp (s : State) (v : Byte) (q : PairSp) : (s.setF v).pairSp q = s.pairSp q := rfl
@[simp] theorem setF_pairIdx (s : State) (v : Byte) (y : IdxReg) (q : PairIdx) : (s.setF v).pairIdx y q = s.pairIdx y q := rfl
@[simp] theorem setF_byteAt (s : State) (v : Byte) (b : Word) : (s.setF v).byteAt b = s.byteAt b := rfl
@[simp] theorem setF_memAnswer (s : State) (v : Byte) (k : Nat) (b : Word) : (s.setF v).memAnswer k b = s.memAnswer k b := rfl
@[simp] theorem setF_portByte (s : State) (v : Byte) (q : Word) : (s.setF v).portByte q = s.portByte q := rfl
@[simp] theorem setF_irAddr (s : State) (v : Byte) : (s.setF v).irAddr = s.irAddr := rfl
@[simp] theorem setF_idxAddr (s : State) (v : Byte) (y : IdxReg) (d : Byte) : (s.setF v).idxAddr y d = s.idxAddr y d := rfl
@[simp] theorem issueRead_a (s : State) (c : BusCall) (n : Nat) : (s.issueRead c n).a = s.a := rfl
@[simp] theorem issueRead_f (s : State) (c : BusCall) (n : Nat) : (s.issueRead c n).f = s.f := rfl
@[simp] theorem issueRead_reg (s : State) (c : BusCall) (n : Nat) (q : Reg8) : (s.issueRead c n).reg q = s.reg q := rfl
@[simp] theorem issueRead_half (s : State) (c : BusCall) (n : Nat) (y : IdxReg) (k : Half) : (s.issueRead c n).half y k = s.half y k := rfl
@[simp] theorem issueRead_idx (s : State) (c : BusCall) (n : Nat) (y : IdxReg) : (s.issueRead c n).idx y = s.idx y := rfl
@[simp] theorem issueRead_pairSp (s : State) (c : BusCall) (n : Nat) (q : PairSp) : (s.issueRead c n).pairSp q = s.pairSp q := rfl
@[simp] theorem issueRead_pairAf (s : State) (c : BusCall) (n : Nat) (q : PairAf) : (s.issueRead c n).pairAf q = s.pairAf q := rfl
@[simp] theorem issueRead_pairIdx (s : State) (c : BusCall) (n : Nat) (y : IdxReg) (q : PairIdx) : (s.issueRead c n).pairIdx y q = s.pairIdx y q := rfl
@[simp] theorem issueRead_byteAt (s : State) (c : BusCall) (n : Nat) (b : Word) : (s.issueRead c n).byteAt b = s.byteAt b := rfl
@[simp] theorem issueRead_portByte (s : State) (c : BusCall) (n : Nat) (q : Word) : (s.issueRead c n).portByte q = s.portByte q := rfl
@[simp] theorem issueRead_irAddr (s : State) (c : BusCall) (n : Nat) : (s.issueRead c n).irAddr = s.irAddr := rfl
@[simp] theorem issueRead_idxAddr (s : State) (c : BusCall) (n : Nat) (y : IdxReg) (d : Byte) : (s.issueRead c n).idxAddr y d = s.idxAddr y d := rfl
@[simp] theorem memRead_a (s : State) (a : Word) : (s.memRead a).2.a = s.a := rfl
@[simp] theorem memRead_f (s : State) (a : Word) : (s.memRead a).2.f = s.f := rfl
@[simp] theorem memRead_reg (s : State) (a : Word) (q : Reg8) : (s.memRead a).2.reg q = s.reg q := rfl
@[simp] theorem memRead_half (s : State) (a : Word) (y : IdxReg) (k : Half) : (s.memRead a).2.half y k = s.half y k := rfl
@[simp] theorem memRead_idx (s : State) (a : Word) (y : IdxReg) : (s.memRead a).2.idx y = s.idx y := rfl
@[simp] theorem memRead_pairSp (s : State) (a : Word) (q : PairSp) : (s.memRead a).2.pairSp q = s.pairSp q := rfl
@[simp] theorem memRead_pairAf (s : State) (a : Word) (q : PairAf) : (s.memRead a).2.pairAf q = s.pairAf q := rfl
@[simp] theorem memRead_pairIdx (s : State) (a : Word) (y : IdxReg) (q : PairIdx) : (s.memRead a).2.pairIdx y q = s.pairIdx y q := rfl
@[simp] theorem memRead_byteAt (s : State) (a : Word) (b : Word) : (s.memRead a).2.byteAt b = s.byteAt b := rfl
@[simp] theorem memRead_portByte (s : State) (a : Word) (q : Word) : (s.memRead a).2.portByte q = s.portByte q := rfl
@[simp] theorem memRead_irAddr (s : State) (a : Word) : (s.memRead a).2.irAddr = s.irAddr := rfl
@[simp] theorem memRead_idxAddr (s : State) (a : Word) (y : IdxReg) (d : Byte) : (s.memRead a).2.idxAddr y d = s.idxAddr y d := rfl
@[simp] theorem memWrite_a (s : State) (a : Word) (v : Byte) : (s.memWrite a v).a = s.a := rfl
@[simp] theorem memWrite_f (s : State) (a : Word) (v : Byte) : (s.memWrite a v).f = s.f := rfl
@[simp] theorem memWrite_reg (s : State) (a : Word) (v : Byte) (q : Reg8) : (s.memWrite a v).reg q = s.reg q := rfl
@[simp] theorem memWrite_half (s : State) (a : Word) (v : Byte) (y : IdxReg) (k : Half) : (s.memWrite a v).half y k = s.half y k := rfl
@[simp] theorem memWrite_idx (s : State) (a : Word) (v : Byte) (y : IdxReg) : (s.memWrite a v).idx y = s.idx y := rfl
@[simp] theorem memWrite_pairSp (s : State) (a : Word) (v : Byte) (q : PairSp) : (s.memWrite a v).pairSp q = s.pairSp q := rfl
@[simp] theorem memWrite_pairAf (s : State) (a : Word) (v : Byte) (q : PairAf) : (s.memWrite a v).pairAf q = s.pairAf q := rfl
@[simp] theorem memWrite_pairIdx (s : State) (a : Word) (v : Byte) (y : IdxReg) (q : PairIdx) : (s.memWrite a v).pairIdx y q = s.pairIdx y q := rfl
@[simp] theorem memWrite_portByte (s : State) (a : Word) (v : Byte) (q : Word) : (s.memWrite a v).portByte q = s.portByte q := rfl
@[simp] theorem memWrite_irAddr (s : State) (a : Word) (v : Byte) : (s.memWrite a v).irAddr = s.irAddr := rfl
@[simp] theorem memWrite_idxAddr (s : State) (a : Word) (v : Byte) (y : IdxReg) (d : Byte) : (s.memWrite a v).idxAddr y d = s.idxAddr y d := rfl
@[simp] theorem portRead_a (s : State) (p : Word) : (s.portRead p).2.a = s.a := rfl
@[simp] theorem portRead_f (s : State) (p : Word) : (s.portRead p).2.f = s.f := rfl
@[simp] theorem portRead_reg (s : State) (p : Word) (q : Reg8) : (s.portRead p).2.reg q = s.reg q := rfl
@[simp] theorem portRead_half (s : State) (p : Word) (y : IdxReg) (k : Half) : (s.portRead p).2.half y k = s.half y k := rfl
@[simp] theorem portRead_idx (s : State) (p : Word) (y : IdxReg) : (s.portRead p).2.idx y = s.idx y := rfl
@[simp] theorem portRead_pairSp (s : State) (p : Word) (q : PairSp) : (s.portRead p).2.pairSp q = s.pairSp q := rfl
@[simp] theorem portRead_pairAf (s : State) (p : Word) (q : PairAf) : (s.portRead p).2.pairAf q = s.pairAf q := rfl
@[simp] theorem portRead_pairIdx (s : State) (p : Word) (y : IdxReg) (q : PairIdx) : (s.portRead p).2.pairIdx y q = s.pairIdx y q := rfl
@[simp] theorem portRead_byteAt (s : State) (p : Word) (b : Word) : (s.portRead p).2.byteAt b = s.byteAt b := rfl
@[simp] theorem portRead_memAnswer (s : State) (p : Word) (k : Nat) (b : Word) : (s.portRead p).2.memAnswer k b = s.memAnswer k b := rfl
@[simp] theorem portRead_irAddr (s : State) (p : Word) : (s.portRead p).2.irAddr = s.irAddr := rfl
@[simp] theorem portRead_idxAddr (s : State) (p : Word) (y : IdxReg) (d : Byte) : (s.portRead p).2.idxAddr y d = s.idxAddr y d := rfl
@[simp] theorem portWrite_a (s : State) (p : Word) (v : Byte) : (s.portWrite p v).a = s.a := rfl
@[simp] theorem portWrite_f (s : State) (p : Word) (v : Byte) : (s.portWrite p v).f = s.f := rfl
@[simp] theorem portWrite_reg (s : State) (p : Word) (v : Byte) (q : Reg8) : (s.portWrite p v).reg q = s.reg q := rfl
@[simp] theorem portWrite_half (s : State) (p : Word) (v : Byte) (y : IdxReg) (k : Half) : (s.portWrite p v).half y k = s.half y k := rfl
@[simp] theorem portWrite_idx (s : State) (p : Word) (v : Byte) (y : IdxReg) : (s.portWrite p v).idx y = s.idx y := rfl
@[simp] theorem portWrite_pairSp (s : State) (p : Word) (v : Byte) (q : PairSp) : (s.portWrite p v).pairSp q = s.pairSp q := rfl
@[simp] theorem portWrite_pairAf (s : State) (p : Word) (v : Byte) (q : PairAf) : (s.portWrite p v).pairAf q = s.pairAf q := rfl
@[simp] theorem portWrite_pairIdx (s : State) (p : Word) (v : Byte) (y : IdxReg) (q : PairIdx) : (s.portWrite p v).pairIdx y q = s.pairIdx y q := rfl
@[simp] theorem portWrite_byteAt (s : State) (p : Word) (v : Byte) (b : Word) : (s.portWrite p v).byteAt b = s.byteAt b := rfl
@[simp] theorem portWrite_memAnswer (s : State) (p : Word) (v : Byte) (k : Nat) (b : Word) : (s.portWrite p v).memAnswer k b = s.memAnswer k b := rfl
@[simp] theorem portWrite_portByte (s : State) (p : Word) (v : Byte) (q : Word) : (s.portWrite p v).portByte q = s.portByte q := rfl
@[simp] theorem portWrite_irAddr (s : State) (p : Word) (v : Byte) : (s.portWrite p v).irAddr = s.irAddr := rfl
@[simp] theorem portWrite_idxAddr (s : State) (p : Word) (v : Byte) (y : IdxReg) (d : Byte) : (s.portWrite p v).idxAddr y d = s.idxAddr y d := rfl
@[simp] theorem idle_a (s : State) (a : Word) (n : Nat) : (s.idle a n).a = s.a := rfl
@[simp] theorem idle_f (s : State) (a : Word) (n : Nat) : (s.idle a n).f = s.f := rfl
@[simp] theorem idle_reg (s : State) (a : Word) (n : Nat) (q : Reg8) : (s.idle a n).reg q = s.reg q := rfl
@[simp] theorem idle_half (s : State) (a : Word) (n : Nat) (y : IdxReg) (k : Half) : (s.idle a n).half y k = s.half y k := rfl
@[simp] theorem idle_idx (s : State) (a : Word) (n : Nat) (y : IdxReg) : (s.idle a n).idx y = s.idx y := rfl
@[simp] theorem idle_pairSp (s : State) (a : Word) (n : Nat) (q : PairSp) : (s.idle a n).pairSp q = s.pairSp q := rfl
@[simp] theorem idle_pairAf (s : State) (a : Word) (n : Nat) (q : PairAf) : (s.idle a n).pairAf q = s.pairAf q := rfl
@[simp] theorem idle_pairIdx (s : State) (a : Word) (n : Nat) (y : IdxReg) (q : PairIdx) : (s.idle a n).pairIdx y q = s.pairIdx y q := rfl
@[simp] theorem idle_byteAt (s : State) (a : Word) (n : Nat) (b : Word) : (s.idle a n).byteAt b = s.byteAt b := rfl
@[simp] theorem idle_memAnswer (s : State) (a : Word) (n : Nat) (k : Nat) (b : Word) : (s.idle a n).memAnswer k b = s.memAnswer k b := rfl
@[simp] theorem idle_portByte (s : State) (a : Word) (n : Nat) (q : Word) : (s.idle a n).portByte q = s.portByte q := rfl
@[simp] theorem idle_irAddr (s : State) (a : Word) (n : Nat) : (s.idle a n).irAddr = s.irAddr := rfl
@[simp] theorem idle_idxAddr (s : State) (a : Word) (n : Nat) (y : IdxReg) (d : Byte) : (s.idle a n).idxAddr y d = s.idxAddr y d := rfl
@[simp] theorem fetchM1_a (s : State) : (s.fetchM1).a = s.a := rfl
@[simp] theorem fetchM1_f (s : State) : (s.fetchM1).f = s.f := rfl
@[simp] theorem fetchM1_reg (s : State) (q : Reg8) : (s.fetchM1).reg q = s.reg q := rfl
@[simp] theorem fetchM1_half (s : State) (y : IdxReg) (k : Half) : (s.fetchM1).half y k = s.half y k := rfl
@[simp] theorem fetchM1_idx (s : State) (y : IdxReg) : (s.fetchM1).idx y = s.idx y := rfl
@[simp] theorem fetchM1_pairSp (s : State) (q : PairSp) : (s.fetchM1).pairSp q = s.pairSp q := rfl
@[simp] theorem fetchM1_pairAf (s : State) (q : PairAf) : (s.fetchM1).pairAf q = s.pairAf q := rfl
@[simp] theorem fetchM1_pairIdx (s : State) (y : IdxReg) (q : PairIdx) : (s.fetchM1).pairIdx y q = s.pairIdx y q := rfl
@[simp] theorem fetchM1_byteAt (s : State) (b : Word) : (s.fetchM1).byteAt b = s.byteAt b := rfl
@[simp] theorem fetchM1_portByte (s : State) (q : Word) : (s.fetchM1).portByte q = s.portByte q := rfl
@[simp] theorem fetchM1_idxAddr (s : State) (y : IdxReg) (d : Byte) : (s.fetchM1).idxAddr y d = s.idxAddr y d := rfl
@[simp] theorem imm8_a (s : State) : (s.imm8).a = s.a := rfl
@[simp] theorem imm8_f (s : State) : (s.imm8).f = s.f := rfl
@[simp] theorem imm8_reg (s : State) (q : Reg8) : (s.imm8).reg q = s.reg q := rfl
@[simp] theorem imm8_half (s : State) (y : IdxReg) (k : Half) : (s.imm8).half y k = s.half y k := rfl
@[simp] theorem imm8_idx (s : State) (y : IdxReg) : (s.imm8).idx y = s.idx y := rfl
@[simp] theorem imm8_pairSp (s : State) (q : PairSp) : (s.imm8).pairSp q = s.pairSp q := rfl
@[simp] theorem imm8_pairAf (s : State) (q : PairAf) : (s.imm8).pairAf q = s.pairAf q := rfl
@[simp] theorem imm8_pairIdx (s : State) (y : IdxReg) (q : PairIdx) : (s.imm8).pairIdx y q = s.pairIdx y q := rfl
@[simp] theorem imm8_byteAt (s : State) (b : Word) : (s.imm8).byteAt b = s.byteAt b := rfl
@[simp] theorem imm8_portByte (s : State) (q : Word) : (s.imm8).portByte q = s.portByte q := rfl
@[simp] theorem imm8_irAddr (s : State) : (s.imm8).irAddr = s.irAddr := rfl
@[simp] theorem imm8_idxAddr (s : State) (y : IdxReg) (d : Byte) : (s.imm8).idxAddr y d = s.idxAddr y d := rfl
@[simp] theorem goTo_a (s : State) (a : Word) : (s.goTo a).a = s.a := rfl
@[simp] theorem goTo_f (s : State) (a : Word) : (s.goTo a).f = s.f := rfl
@[simp] theorem goTo_reg (s : State) (a : Word) (q : Reg8) : (s.goTo a).reg q = s.reg q := rfl
@[simp] theorem goTo_half (s : State) (a : Word) (y : IdxReg) (k : Half) : (s.goTo a).half y k = s.half y k := rfl
@[simp] theorem goTo_idx (s : State) (a : Word) (y : IdxReg) : (s.goTo a).idx y = s.idx y := rfl
@[simp] theorem goTo_pairSp (s : State) (a : Word) (q : PairSp) : (s.goTo a).pairSp q = s.pairSp q := rfl
@[simp] theorem goTo_pairAf (s : State) (a : Word) (q : PairAf) : (s.goTo a).pairAf q = s.pairAf q := rfl
@[simp] theorem goTo_pairIdx (s : State) (a : Word) (y : IdxReg) (q : PairIdx) : (s.goTo a).pairIdx y q = s.pairIdx y q := rfl
@[simp] theorem goTo_byteAt (s : State) (a : Word) (b : Word) : (s.goTo a).byteAt b = s.byteAt b := rfl
@[simp] theorem goTo_memAnswer (s : State) (a : Word) (k : Nat) (b : Word) : (s.goTo a).memAnswer k b = s.memAnswer k b := rfl
@[simp] theorem goTo_portByte (s : State) (a : Word) (q : Word) : (s.goTo a).portByte q = s.portByte q := rfl
@[simp] theorem goTo_irAddr (s : State) (a : Word) : (s.goTo a).irAddr = s.irAddr := rfl
@[simp] theorem goTo_idxAddr (s : State) (a : Word) (y : IdxReg) (d : Byte) : (s.goTo a).idxAddr y d = s.idxAddr y d := rfl
@[simp] theorem setReg_half (s : State) (r : Reg8) (v : Byte) (y : IdxReg) (k : Half) : (s.setReg r v).half y k = s.half y k := by cases r <;> rfl
@[simp] theorem setReg_idx (s : State) (r : Reg8) (v : Byte) (y : IdxReg) : (s.setReg r v).idx y = s.idx y := by cases r <;> rfl
@[simp] theorem setReg_byteAt (s : State) (r : Reg8) (v : Byte) (b : Word) : (s.setReg r v).byteAt b = s.byteAt b := by cases r <;> rfl
@[simp] theorem setReg_memAnswer (s : State) (r : Reg8) (v : Byte) (k : Nat) (b : Word) : (s.setReg r v).memAnswer k b = s.memAnswer k b := by cases r <;> rfl
@[simp] theorem setReg_portByte (s : State) (r : Reg8) (v : Byte) (q : Word) : (s.setReg r v).portByte q = s.portByte q := by cases r <;> rfl
@[simp] theorem setReg_irAddr (s : State) (r : Reg8) (v : Byte) : (s.setReg r v).irAddr = s.irAddr := by cases r <;> rfl
@[simp] theorem setReg_idxAddr (s : State) (r : Reg8) (v : Byte) (y : IdxReg) (d : Byte) : (s.setReg r v).idxAddr y d = s.idxAddr y d := by cases r <;> rfl
@[simp] theorem setPairSp_a (s : State) (p : PairSp) (v : Word) : (s.setPairSp p v).a = s.a := by cases p <;> rfl
@[simp] theorem setPairSp_f (s : State) (p : PairSp) (v : Word) : (s.setPairSp p v).f = s.f := by cases p <;> rfl
@[simp] theorem setPairSp_half (s : State) (p : PairSp) (v : Word) (y : IdxReg) (k : Half) : (s.setPairSp p v).half y k = s.half y k := by cases p <;> rfl
@[simp] theorem setPairSp_idx (s : State) (p : PairSp) (v : Word) (y : IdxReg) : (s.setPairSp p v).idx y = s.idx y := by cases p <;> rfl
@[simp] theorem setPairSp_byteAt (s : State) (p : PairSp) (v : Word) (b : Word) : (s.setPairSp p v).byteAt b = s.byteAt b := by cases p <;> rfl
@[simp] theorem setPairSp_memAnswer (s : State) (p : PairSp) (v : Word) (k : Nat) (b : Word) : (s.setPairSp p v).memAnswer k b = s.memAnswer k b := by cases p <;> rfl
@[simp] theorem setPairSp_portByte (s : State) (p : PairSp) (v : Word) (q : Word) : (s.setPairSp p v).portByte q = s.portByte q := by cases p <;> rfl
@[simp] theorem setPairSp_irAddr (s : State) (p : PairSp) (v : Word) : (s.setPairSp p v).irAddr = s.irAddr := by cases p <;> rfl
@[simp] theorem setPairSp_idxAddr (s : State) (p : PairSp) (v : Word) (y : IdxReg) (d : Byte) : (s.setPairSp p v).idxAddr y d = s.idxAddr y d := by cases p <;> rfl
@[simp] theorem setPairAf_half (s : State) (p : PairAf) (v : Word) (y : IdxReg) (k : Half) : (s.setPairAf p v).half y k = s.half y k := by cases p <;> rfl
@[simp] theorem setPairAf_idx (s : State) (p : PairAf) (v : Word) (y : IdxReg) : (s.setPairAf p v).idx y = s.idx y := by cases p <;> rfl
@[simp] theorem setPairAf_byteAt (s : State) (p : PairAf) (v : Word) (b : Word) : (s.setPairAf p v).byteAt b = s.byteAt b := by cases p <;> rfl
@[simp] theorem setPairAf_memAnswer (s : State) (p : PairAf) (v : Word) (k : Nat) (b : Word) : (s.setPairAf p v).memAnswer k b = s.memAnswer k b := by cases p <;> rfl
@[simp] theorem setPairAf_portByte (s : State) (p : PairAf) (v : Word) (q : Word) : (s.setPairAf p v).portByte q = s.portByte q := by cases p <;> rfl
@[simp] theorem setPairAf_irAddr (s : State) (p : PairAf) (v : Word) : (s.setPairAf p v).irAddr = s.irAddr := by cases p <;> rfl
@[simp] theorem setPairAf_idxAddr (s : State) (p : PairAf) (v : Word) (y : IdxReg) (d : Byte) : (s.setPairAf p v).idxAddr y d = s.idxAddr y d := by cases p <;> rfl
@[simp] theorem setIdx_a (s : State) (x : IdxReg) (v : Word) : (s.setIdx x v).a = s.a := by cases x <;> rfl
@[simp] theorem setIdx_f (s : State) (x : IdxReg) (v : Word) : (s.setIdx x v).f = s.f := by cases x <;> rfl
@[simp] theorem setIdx_reg (s : State) (x : IdxReg) (v : Word) (q : Reg8) : (s.setIdx x v).reg q = s.reg q := by cases x <;> rfl
@[simp] theorem setIdx_pairSp (s : State) (x : IdxReg) (v : Word) (q : PairSp) : (s.setIdx x v).pairSp q = s.pairSp q := by cases x <;> rfl
@[simp] theorem setIdx_pairAf (s : State) (x : IdxReg) (v : Word) (q : PairAf) : (s.setIdx x v).pairAf q = s.pairAf q := by cases x <;> rfl
@[simp] theorem setIdx_byteAt (s : State) (x : IdxReg) (v : Word) (b : Word) : (s.setIdx x v).byteAt b = s.byteAt b := by cases x <;> rfl
@[simp] theorem setIdx_memAnswer (s : State) (x : IdxReg) (v : Word) (k : Nat) (b : Word) : (s.setIdx x v).memAnswer k b = s.memAnswer k b := by cases x <;> rfl
@[simp] theorem setIdx_portByte (s : State) (x : IdxReg) (v : Word) (q : Word) : (s.setIdx x v).portByte q = s.portByte q := by cases x <;> rfl
@[simp] theorem setIdx_irAddr (s : State) (x : IdxReg) (v : Word) : (s.setIdx x v).irAddr = s.irAddr := by cases x <;> rfl
@[simp] theorem setHalf_a (s : State) (x : IdxReg) (h : Half) (v : Byte) : (s.setHalf x h v).a = s.a := by cases x <;> cases h <;> rfl
@[simp] theorem setHalf_f (s : State) (x : IdxReg) (h : Half) (v : Byte) : (s.setHalf x h v).f = s.f := by cases x <;> cases h <;> rfl
@[simp] theorem setHalf_reg (s : State) (x : IdxReg) (h : Half) (v : Byte) (q : Reg8) : (s.setHalf x h v).reg q = s.reg q := by cases x <;> cases h <;> rfl
@[simp] theorem setHalf_pairSp (s : State) (x : IdxReg) (h : Half) (v : Byte) (q : PairSp) : (s.setHalf x h v).pairSp q = s.pairSp q := by cases x <;> cases h <;> rfl
@[simp] theorem setHalf_pairAf (s : State) (x : IdxReg) (h : Half) (v : Byte) (q : PairAf) : (s.setHalf x h v).pairAf q = s.pairAf q := by cases x <;> cases h <;> rfl
@[simp] theorem setHalf_byteAt (s : State) (x : IdxReg) (h : Half) (v : Byte) (b : Word) : (s.setHalf x h v).byteAt b = s.byteAt b := by cases x <;> cases h <;> rfl
@[simp] theorem setHalf_memAnswer (s : State) (x : IdxReg) (h : Half) (v : Byte) (k : Nat) (b : Word) : (s.setHalf x h v).memAnswer k b = s.memAnswer k b := by cases x <;> cases h <;> rfl
@[simp] theorem setHalf_portByte (s : State) (x : IdxReg) (h : Half) (v : Byte) (q : Word) : (s.setHalf x h v).portByte q = s.portByte q := by cases x <;> cases h <;> rfl
@[simp] theorem setHalf_irAddr (s : State) (x : IdxReg) (h : Half) (v : Byte) : (s.setHalf x h v).irAddr = s.irAddr := by cases x <;> cases h <;> rfl

/-! ## What the accessors read after an update that does -/

@[simp] theorem setA_a (s : State) (v : Byte) : (s.setA v).a = v := by simp [State.a]

@[simp] theorem setA_f (s : State) (v : Byte) : (s.setA v).f = s.f := by simp [State.f]

@[simp] theorem setF_a (s : State) (v : Byte) : (s.setF v).a = s.a := by simp [State.a]

@[simp] theorem setF_f (s : State) (v : Byte) : (s.setF v).f = v := by simp [State.f]

@[simp] theorem setA_reg (s : State) (v : Byte) (q : Reg8) :
    (s.setA v).reg q = if q = .a then v else s.reg q := by
  cases q <;> simp [State.reg]

@[simp] theorem setF_reg (s : State) (v : Byte) (q : Reg8) : (s.setF v).reg q = s.reg q := by
  cases q <;> simp [State.reg]

@[simp] theorem setReg_reg (s : State) (r : Reg8) (v : Byte) (q : Reg8) :
    (s.setReg r v).reg q = if q = r then v else s.reg q := by
  cases r <;> cases q <;> simp [State.setReg, State.reg]

@[simp] theorem setReg_f (s : State) (r : Reg8) (v : Byte) : (s.setReg r v).f = s.f := by
  cases r <;> simp [State.setReg, State.f]

@[simp] theorem setReg_a (s : State) (r : Reg8) (v : Byte) :
    (s.setReg r v).a = if r = .a then v else s.a := by
  cases r <;> simp [State.setReg, State.a]

@[simp] theorem setPairSp_pairSp (s : State) (p : PairSp) (v : Word) (q : PairSp) :
    (s.setPairSp p v).pairSp q = if q = p then v else s.pairSp q := by
  cases p <;> cases q <;> simp [State.setPairSp, State.pairSp]

@[simp] theorem setPairAf_pairAf (s : State) (p : PairAf) (v : Word) (q : PairAf) :
    (s.setPairAf p v).pairAf q = if q = p then v else s.pairAf q := by
  cases p <;> cases q <;> simp [State.setPairAf, State.pairAf]

@[simp] theorem setIdx_idx (s : State) (x : IdxReg) (v : Word) (y : IdxReg) :
    (s.setIdx x v).idx y = if y = x then v else s.idx y := by
  cases x <;> cases y <;> simp [State.setIdx, State.idx]

@[simp] theorem setHalf_half (s : State) (x : IdxReg) (h : Half) (v : Byte) (y : IdxReg) (k : Half) :
    (s.setHalf x h v).half y k = if y = x ∧ k = h then v else s.half y k := by
  cases x <;> cases y <;> cases h <;> cases k <;> simp [State.setHalf, State.setIdx, State.half, State.idx]

/-- A byte written is read back, and no other byte changes. -/
@[simp] theorem memWrite_byteAt (s : State) (a : Word) (v : Byte) (b : Word) :
    (s.memWrite a v).byteAt b = if b = a then v else s.byteAt b := by
  have : b.toNat = a.toNat ↔ b = a := ⟨BitVec.eq_of_toNat_eq, fun h => h ▸ rfl⟩
  simp only [State.byteAt, memWrite_mem, Memory.read_write, this]

@[simp] theorem memRead_fst (s : State) (a : Word) : (s.memRead a).1 = s.memAnswer 0 a := rfl

/-- A read uses up one answer: what read k answered is now what read k - 1 answers. -/
@[simp] theorem issueRead_memAnswer (s : State) (c : BusCall) (n k : Nat) (b : Word) :
    (s.issueRead c n).memAnswer k b = s.memAnswer (k + 1) b := by
  simp [State.memAnswer, State.issueRead, State.byteAt, List.getD_eq_getElem?_getD]

@[simp] theorem memRead_memAnswer (s : State) (a : Word) (k : Nat) (b : Word) :
    (s.memRead a).2.memAnswer k b = s.memAnswer (k + 1) b := issueRead_memAnswer s _ _ k b

@[simp] theorem fetchM1_memAnswer (s : State) (k : Nat) (b : Word) :
    s.fetchM1.memAnswer k b = s.memAnswer (k + 1) b := issueRead_memAnswer s (.readFetch s.pc) 4 k b

@[simp] theorem imm8_memAnswer (s : State) (k : Nat) (b : Word) :
    s.imm8.memAnswer k b = s.memAnswer (k + 1) b := issueRead_memAnswer s (.readMem s.pc) 3 k b

/-- While the host names no answer, a read answers what its memory holds. -/
theorem memAnswer_of_nil (s : State) (h : s.memIn = []) (k : Nat) (b : Word) :
    s.memAnswer k b = s.byteAt b := by
  rw [State.memAnswer, h, List.getD_nil]

/-- States with the same memory and the same named answers answer the same. -/
theorem memAnswer_congr (s t : State) (h : t.mem = s.mem) (k : t.memIn = s.memIn) (n : Nat) (b : Word) :
    t.memAnswer n b = s.memAnswer n b := by
  rw [State.memAnswer, State.memAnswer, State.byteAt, State.byteAt, h, k]

@[simp] theorem portRead_fst (s : State) (p : Word) : (s.portRead p).1 = s.portByte p := rfl

theorem reg_a (s : State) : s.reg .a = s.a := rfl

end Sys2Proof.Machine
end

