-- ==== Sys2Proof/Laws/Ops.lean ====
section
/-! SUPPORT. For each shared operation of Sys2Proof/Machine/Ops.lean and Operands.lean, once, everything it
can do: the state after it in closed form (`…_eq`), or the callbacks it issues, what it changes and
what it leaves (`…_spec`); and the laws by which `Issued` and `Frame` compose. Proofs about
instructions cite these and never unfold the operations. -/

namespace Sys2Proof.Machine

open Sys2Proof

/-! ## Addresses one and two away -/

theorem word_sub_one_ne_sub_two (a : Word) : a - 1 ≠ a - 2 := by bv_omega

theorem word_add_one_ne (a : Word) : a + 1 ≠ a := by bv_omega

theorem word_add_one_add_one (a : Word) : a + 1 + 1 = a + 2 := by bv_omega

theorem word_sub_one_sub_one (a : Word) : a - 1 - 1 = a - 2 := by bv_omega

theorem word_add_two_sub_one (a : Word) : a + 2 - 1 = a + 1 := by bv_omega

/-! ## Composition -/

theorem Part.same_refl (p : Part) (s : State) : p.same s s := by cases p <;> simp [Part.same]

theorem Part.same_trans {p : Part} {s t u : State} (h : p.same s t) (k : p.same t u) : p.same s u := by
  cases p <;> simp_all [Part.same]

theorem Frame.refl (s : State) : Frame [] [] s s := ⟨fun p _ => p.same_refl s, fun _ _ => rfl⟩

/-- A run that goes through `t` changes at most what its two halves change. -/
theorem Frame.trans {ps qs : List Part} {as bs : List Word} {s t u : State} (h : Frame ps as s t)
    (k : Frame qs bs t u) : Frame (ps ++ qs) (as ++ bs) s u :=
  ⟨fun p hp => by
      rw [List.mem_append, not_or] at hp
      exact Part.same_trans (h.1 p hp.1) (k.1 p hp.2),
    fun a ha => by
      rw [List.mem_append, not_or] at ha
      rw [k.2 a ha.2, h.2 a ha.1]⟩

/-- A frame may list more than changes. -/
theorem Frame.mono {ps qs : List Part} {as bs : List Word} {s t : State} (h : Frame ps as s t)
    (hp : ∀ p ∈ ps, p ∈ qs) (ha : ∀ a ∈ as, a ∈ bs) : Frame qs bs s t :=
  ⟨fun p n => h.1 p fun m => n (hp p m), fun a n => h.2 a fun m => n (ha a m)⟩

theorem Issued.refl (s : State) : Issued [] s s := ⟨rfl, rfl, rfl⟩

/-- The callbacks of two halves of a run follow each other, and their times add up. -/
theorem Issued.trans {cs ds : List BusCall} {s t u : State} (h : Issued cs s t) (k : Issued ds t u) :
    Issued (cs ++ ds) s u :=
  ⟨by rw [k.1, h.1]; simp, by rw [k.2.1, h.2.1]; simp; omega,
    by rw [k.2.2, h.2.2, List.drop_drop, List.countP_append]⟩

/-- After a run that stored nothing, the answers are those left over by the reads it issued. -/
theorem Issued.memAnswer {cs : List BusCall} {ps : List Part} {s t : State} (h : Issued cs s t)
    (f : Frame ps [] s t) (k : Nat) (a : Word) :
    t.memAnswer k a = s.memAnswer (cs.countP isMemRead + k) a := by
  rw [State.memAnswer, State.memAnswer, h.2.2, f.2 a (by simp)]
  simp [List.getD_eq_getElem?_getD]

/-- A state that differs only in T, the log and the answers left has the frame of nothing changed. -/
theorem frame_of_bus (s : State) (answers : List Byte) (bus : List BusCall) (n : Nat) :
    Frame [] [] s { s with memIn := answers, bus := bus, tStates := n } :=
  ⟨fun p _ => by cases p <;> simp [Part.same] <;> rfl, fun _ _ => rfl⟩

/-! ## Bus primitives -/

theorem memRead_spec (s : State) (a : Word) :
    Issued [.readMem a] s (s.memRead a).2 ∧ Frame [] [] s (s.memRead a).2 :=
  ⟨⟨rfl, rfl, rfl⟩, frame_of_bus s _ _ _⟩

theorem memWrite_spec (s : State) (a : Word) (v : Byte) :
    Issued [.writeMem a v] s (s.memWrite a v) ∧ Frame [] [a] s (s.memWrite a v)
      ∧ (s.memWrite a v).byteAt a = v := by
  refine ⟨⟨rfl, rfl, rfl⟩, ⟨fun p _ => by cases p <;> simp [Part.same], fun b hb => ?_⟩, by simp⟩
  rw [memWrite_byteAt, if_neg (by simpa using hb)]

theorem memRead16_spec (s : State) (a : Word) :
    (s.memRead16 a).1 = s.wordAnswer 0 a ∧ Issued [.readMem a, .readMem (a + 1)] s (s.memRead16 a).2
      ∧ Frame [] [] s (s.memRead16 a).2 := by
  have h := memRead_spec s a
  have k := memRead_spec (s.memRead a).2 (a + 1)
  exact ⟨by simp [State.memRead16, State.wordAnswer], h.1.trans k.1, h.2.trans k.2⟩

theorem memWrite16_spec (s : State) (a v : Word) :
    Issued [.writeMem a (loByte v), .writeMem (a + 1) (hiByte v)] s (s.memWrite16 a v)
      ∧ Frame [] [a, a + 1] s (s.memWrite16 a v) ∧ (s.memWrite16 a v).wordAt a = v := by
  have h := memWrite_spec s a (loByte v)
  have k := memWrite_spec (s.memWrite a (loByte v)) (a + 1) (hiByte v)
  refine ⟨h.1.trans k.1, h.2.1.trans k.2.1, ?_⟩
  simp [State.memWrite16, State.wordAt]

theorem portRead_spec (s : State) (p : Word) :
    (s.portRead p).1 = s.portByte p ∧ (s.portRead p).2.portIn = s.portIn.tail
      ∧ Issued [.readPort p] s (s.portRead p).2 ∧ Frame [.ports] [] s (s.portRead p).2 :=
  ⟨rfl, rfl, ⟨rfl, rfl, rfl⟩, fun p hp => by cases p <;> simp_all [Part.same], fun _ _ => rfl⟩

theorem portWrite_spec (s : State) (p : Word) (v : Byte) :
    Issued [.writePort p v] s (s.portWrite p v) ∧ Frame [] [] s (s.portWrite p v) :=
  ⟨⟨rfl, rfl, rfl⟩, frame_of_bus s _ _ _⟩

theorem idle_spec (s : State) (a : Word) (n : Nat) :
    Issued (List.replicate n (.noRequestMem a)) s (s.idle a n) ∧ Frame [] [] s (s.idle a n) :=
  ⟨⟨by simp, by simp [callCost], by simp [isMemRead, List.countP_replicate]⟩, frame_of_bus s _ _ _⟩

/-! ## Instruction-stream primitives -/

theorem fetchM1_spec (s : State) :
    s.fetchM1.pc = s.pc + 1 ∧ s.fetchM1.r = refreshInc s.r ∧ Issued [.readFetch s.pc] s s.fetchM1
      ∧ Frame [.pc, .refresh] [] s s.fetchM1 :=
  ⟨rfl, rfl, ⟨rfl, rfl, rfl⟩, fun p hp => by cases p <;> simp_all [Part.same], fun _ _ => rfl⟩

/-- `RefreshInc` keeps bit 7 and counts the low seven bits modulo 128. -/
theorem refreshInc_spec : ∀ r : Byte,
    (refreshInc r).getLsbD 7 = r.getLsbD 7 ∧ (refreshInc r).toNat % 128 = (r.toNat + 1) % 128 := by
  decide +kernel

theorem imm8_spec (s : State) :
    s.imm8.pc = s.pc + 1 ∧ Issued [.readMem s.pc] s s.imm8 ∧ Frame [.pc] [] s s.imm8 :=
  ⟨rfl, ⟨rfl, rfl, rfl⟩, fun p hp => by cases p <;> simp_all [Part.same], fun _ _ => rfl⟩

theorem imm16_spec (s : State) :
    s.imm16.pc = s.pc + 2 ∧ Issued (nnCalls s) s s.imm16 ∧ Frame [.pc] [] s s.imm16 :=
  ⟨word_add_one_add_one s.pc, (imm8_spec s).2.1.trans (imm8_spec s.imm8).2.1,
    ((imm8_spec s).2.2.trans (imm8_spec s.imm8).2.2).mono (by simp) (by simp)⟩

theorem setSp_frame (s : State) (v : Word) : Frame [.sp] [] s { s with sp := v } :=
  ⟨fun p hp => by cases p <;> simp_all [Part.same] <;> rfl, fun _ _ => rfl⟩

/-- A push in closed form. -/
theorem push16_eq (s : State) (v : Word) :
    s.push16 v = { (s.memWrite (s.sp - 1) (hiByte v)).memWrite (s.sp - 2) (loByte v) with
      sp := s.sp - 2 } := by
  simp only [State.push16, State.memWrite, word_sub_one_sub_one]

theorem push16_spec (s : State) (v : Word) :
    Issued (pushCalls s v) s (s.push16 v) ∧ Frame [.sp] [s.sp - 1, s.sp - 2] s (s.push16 v)
      ∧ Pushed v s (s.push16 v) := by
  have h := memWrite_spec s (s.sp - 1) (hiByte v)
  have k := memWrite_spec (s.memWrite (s.sp - 1) (hiByte v)) (s.sp - 2) (loByte v)
  have m := setSp_frame ((s.memWrite (s.sp - 1) (hiByte v)).memWrite (s.sp - 2) (loByte v)) (s.sp - 2)
  rw [push16_eq]
  refine ⟨h.1.trans k.1, ((h.2.1.trans k.2.1).trans m).mono (by simp) (by simp), rfl, ?_, ?_⟩
  · rw [m.2 _ (by simp), memWrite_byteAt, if_neg (word_sub_one_ne_sub_two s.sp), h.2.2]
  · rw [m.2 _ (by simp), k.2.2]

theorem pop16_spec (s : State) :
    s.pop16.1 = s.wordAnswer 0 s.sp ∧ s.pop16.2.sp = s.sp + 2
      ∧ Issued [.readMem s.sp, .readMem (s.sp + 1)] s s.pop16.2 ∧ Frame [.sp] [] s s.pop16.2 := by
  have h := memRead16_spec s s.sp
  have e : s.pop16 = ((s.memRead16 s.sp).1, { (s.memRead16 s.sp).2 with sp := s.sp + 1 + 1 }) := rfl
  rw [e]
  exact ⟨h.1, word_add_one_add_one s.sp, h.2.1,
    (h.2.2.trans (setSp_frame _ (s.sp + 1 + 1))).mono (by simp) (by simp)⟩

theorem goTo_spec (s : State) (a : Word) :
    (s.goTo a).pc = a ∧ (s.goTo a).memptr = a ∧ Issued [] s (s.goTo a)
      ∧ Frame [.pc, .memptr] [] s (s.goTo a) :=
  ⟨rfl, rfl, ⟨rfl, rfl, rfl⟩, fun p hp => by cases p <;> simp_all [Part.same], fun _ _ => rfl⟩

/-! ## Taking a signal and returning -/

/-- What the NMI and INT services share: the return address pushed is past the HALT byte if halted. -/
theorem enterInterrupt_spec (s : State) (ack : BusCall) (cost : Nat) :
    let t := s.enterInterrupt ack cost
    t.bus = (pushCalls s s.returnAddress).reverse ++ ack :: s.bus ∧ t.tStates = s.tStates + (cost + 6)
      ∧ t.memIn = s.memIn ∧ t.pc = s.returnAddress ∧ t.r = refreshInc s.r ∧ t.halted = false ∧ Pushed s.returnAddress s t
      ∧ Frame [.halted, .pc, .refresh, .sp] [s.sp - 1, s.sp - 2] s t := by
  intro t
  have e : t = { s with
      bus := ack :: s.bus
      halted := false
      pc := s.returnAddress
      r := refreshInc s.r
      tStates := s.tStates + cost }.push16 s.returnAddress := rfl
  generalize hu : ({ s with
      bus := ack :: s.bus
      halted := false
      pc := s.returnAddress
      r := refreshInc s.r
      tStates := s.tStates + cost } : State) = u at e
  have f : Frame [.halted, .pc, .refresh] [] s u := by
    subst hu
    exact ⟨fun p hp => by cases p <;> simp_all [Part.same] <;> rfl, fun _ _ => rfl⟩
  have k := push16_spec u s.returnAddress
  have hsp : u.sp = s.sp := by subst hu; rfl
  rw [← e] at k
  simp only [pushCalls, Pushed, hsp] at k
  refine ⟨?_, ?_, ?_, ?_, ?_, ?_, k.2.2, ((f.trans k.2.1).mono (by simp) (by simp))⟩
  · rw [k.1.1]; subst hu; rfl
  · rw [k.1.2.1]; subst hu; simp [callCost]; omega
  · rw [k.1.2.2]; subst hu; rfl
  · have := k.2.1.1 .pc (by simp); rw [Part.same] at this; rw [this]; subst hu; rfl
  · have := k.2.1.1 .refresh (by simp); rw [Part.same] at this; rw [this]; subst hu; rfl
  · have := k.2.1.1 .halted (by simp); rw [Part.same] at this; rw [this]; subst hu; rfl

theorem return_spec (s : State) :
    s.return.pc = s.wordAnswer 0 s.sp ∧ s.return.memptr = s.wordAnswer 0 s.sp ∧ s.return.sp = s.sp + 2
      ∧ Issued [.readMem s.sp, .readMem (s.sp + 1)] s s.return
      ∧ Frame [.pc, .memptr, .sp] [] s s.return := by
  have h := pop16_spec s
  have k := goTo_spec s.pop16.2 s.pop16.1
  exact ⟨k.1.trans h.1, k.2.1.trans h.1, (k.2.2.2.1 .sp (by simp)).trans h.2.1,
    h.2.2.1.trans k.2.2.1, (h.2.2.2.trans k.2.2.2).mono (by simp) (by simp)⟩

theorem setIff1_frame (s : State) (v : Bool) : Frame [.iff1] [] s { s with iff1 := v } :=
  ⟨fun p hp => by cases p <;> simp_all [Part.same] <;> rfl, fun _ _ => rfl⟩

theorem returnFromInterrupt_spec (s : State) :
    s.returnFromInterrupt.pc = s.wordAnswer 0 s.sp ∧ s.returnFromInterrupt.memptr = s.wordAnswer 0 s.sp
      ∧ s.returnFromInterrupt.sp = s.sp + 2 ∧ s.returnFromInterrupt.iff1 = s.iff2
      ∧ Issued [.readMem s.sp, .readMem (s.sp + 1)] s s.returnFromInterrupt
      ∧ Frame [.pc, .memptr, .sp, .iff1] [] s s.returnFromInterrupt := by
  have h := return_spec s
  have e : s.return.iff2 = s.iff2 := h.2.2.2.2.1 .iff2 (by simp)
  exact ⟨h.1, h.2.1, h.2.2.1, e, h.2.2.2.1,
    (h.2.2.2.2.trans (setIff1_frame s.return s.return.iff2)).mono (by simp) (by simp)⟩

/-! ## Operand forms -/

theorem setMemptr_frame (s : State) (v : Word) : Frame [.memptr] [] s { s with memptr := v } :=
  ⟨fun p hp => by cases p <;> simp_all [Part.same] <;> rfl, fun _ _ => rfl⟩

theorem idxOperand_spec (s : State) (x : IdxReg) (d : Byte) :
    (s.idxOperand x d).1 = s.idxAddr x d ∧ (s.idxOperand x d).2.memptr = s.idxAddr x d
      ∧ (s.idxOperand x d).2.pc = s.pc + 1 ∧ Issued (dispCalls s) s (s.idxOperand x d).2
      ∧ Frame [.memptr, .pc] [] s (s.idxOperand x d).2 := by
  have h := imm8_spec s
  have k := idle_spec s.imm8 (s.imm8.pc - 1) 5
  have m := setMemptr_frame (s.imm8.idle (s.imm8.pc - 1) 5) ((s.imm8.idle (s.imm8.pc - 1) 5).idxAddr x d)
  have hpc : s.imm8.pc - 1 = s.pc := by rw [h.1]; bv_omega
  have hi := h.2.1.trans k.1
  rw [hpc] at hi
  refine ⟨by cases x <;> rfl, by cases x <;> rfl, rfl, ?_, ((h.2.2.trans k.2).trans m).mono (by simp) (by simp)⟩
  simp only [State.idxOperand, hpc]
  exact hi

theorem readIdx_spec (s : State) (x : IdxReg) (d : Byte) :
    (s.readIdx x d).1 = s.memAnswer 1 (s.idxAddr x d) ∧ (s.readIdx x d).2.memptr = s.idxAddr x d
      ∧ (s.readIdx x d).2.pc = s.pc + 1
      ∧ Issued (dispCalls s ++ [.readMem (s.idxAddr x d)]) s (s.readIdx x d).2
      ∧ Frame [.memptr, .pc] [] s (s.readIdx x d).2 := by
  have h := idxOperand_spec s x d
  have k := memRead_spec (s.idxOperand x d).2 (s.idxOperand x d).1
  refine ⟨?_, h.2.1, h.2.2.1, ?_, (h.2.2.2.2.trans k.2).mono (by simp) (by simp)⟩
  · rw [State.readIdx, memRead_fst, h.2.2.2.1.memAnswer h.2.2.2.2, h.1]; rfl
  · have := h.2.2.2.1.trans k.1; rwa [h.1] at this

/-- A read-modify-write reads the byte, idles one T-state, writes the operation's byte back to the same
address, and F takes the operation's flags. -/
theorem modify_spec (s : State) (a : Word) (op : Byte → Byte → Byte × Byte) :
    let w := op (s.memAnswer 0 a) s.f
    (s.modify a op).1 = w.1 ∧ (s.modify a op).2.f = w.2 ∧ (s.modify a op).2.byteAt a = w.1
      ∧ Issued [.readMem a, .noRequestMem a, .writeMem a w.1] s (s.modify a op).2
      ∧ Frame [.f] [a] s (s.modify a op).2 := by
  refine ⟨rfl, by simp [State.modify], by simp [State.modify], ⟨rfl, rfl, rfl⟩, ?_⟩
  refine ⟨fun p hp => ?_, fun b hb => by simp_all [State.modify]⟩
  cases p <;> simp_all [Part.same, State.modify]

theorem modifyReg_spec (s : State) (r : Reg8) (op : Byte → Byte → Byte × Byte) :
    let w := op (s.reg r) s.f
    (s.modifyReg r op).reg r = w.1 ∧ (s.modifyReg r op).f = w.2 ∧ Issued [] s (s.modifyReg r op)
      ∧ Frame [.reg r, .f] [] s (s.modifyReg r op) := by
  refine ⟨by simp [State.modifyReg], by simp [State.modifyReg], by cases r <;> exact ⟨rfl, rfl, rfl⟩, ?_⟩
  refine ⟨fun p hp => ?_, fun b hb => by simp_all [State.modifyReg]⟩
  cases p <;> simp_all [Part.same, State.modifyReg]

theorem modifyHalf_spec (s : State) (x : IdxReg) (h : Half) (op : Byte → Byte → Byte × Byte) :
    let w := op (s.half x h) s.f
    (s.modifyHalf x h op).half x h = w.1 ∧ (s.modifyHalf x h op).f = w.2
      ∧ Issued [] s (s.modifyHalf x h op) ∧ Frame [.half x h, .f] [] s (s.modifyHalf x h op) := by
  refine ⟨by simp [State.modifyHalf], by simp [State.modifyHalf],
    by cases x <;> cases h <;> exact ⟨rfl, rfl, rfl⟩, ?_⟩
  refine ⟨fun p hp => ?_, fun b hb => by simp_all [State.modifyHalf]⟩
  cases p <;> simp_all [Part.same, State.modifyHalf]

theorem modifyIdx_spec (s : State) (x : IdxReg) (d : Byte) (op : Byte → Byte → Byte × Byte) :
    let ea := s.idxAddr x d
    let w := op (s.memAnswer 1 ea) s.f
    let t := s.modifyIdx x d op
    t.byteAt ea = w.1 ∧ t.f = w.2 ∧ t.memptr = ea ∧ t.pc = s.pc + 1
      ∧ Issued (dispCalls s ++ [.readMem ea, .noRequestMem ea, .writeMem ea w.1]) s t
      ∧ Frame [.f, .memptr, .pc] [ea] s t := by
  intro ea w t
  have h := idxOperand_spec s x d
  have k := modify_spec (s.idxOperand x d).2 (s.idxOperand x d).1 op
  have hf : (s.idxOperand x d).2.f = s.f := h.2.2.2.2.1 .f (by simp)
  have ha : (s.idxOperand x d).2.memAnswer 0 ea = s.memAnswer 1 ea :=
    h.2.2.2.1.memAnswer h.2.2.2.2 0 ea
  rw [hf, h.1, ha] at k
  have hm := k.2.2.2.2.1 .memptr (by simp)
  have hp := k.2.2.2.2.1 .pc (by simp)
  refine ⟨?_, ?_, ?_, ?_, ?_, ?_⟩
  · simpa [t, State.modifyIdx, h.1] using k.2.2.1
  · simpa [t, State.modifyIdx, h.1] using k.2.1
  · simpa [t, State.modifyIdx, h.1, Part.same, h.2.1] using hm
  · simpa [t, State.modifyIdx, h.1, Part.same, h.2.2.1] using hp
  · simpa [t, State.modifyIdx, h.1] using h.2.2.2.1.trans k.2.2.2.1
  · have := (h.2.2.2.2.trans k.2.2.2.2).mono (qs := [.f, .memptr, .pc]) (bs := [ea]) (by simp) (by simp [ea])
    simpa [t, State.modifyIdx, h.1] using this

/-- The DD/FD+CB form: as `modify` at the effective address, which MEMPTR takes; a copy form also writes
the byte to its register, and no more. -/
theorem modifyIdxCb_spec (s : State) (x : IdxReg) (d : Byte) (copy : Option Reg8)
    (op : Byte → Byte → Byte × Byte) :
    let ea := s.idxAddr x d
    let w := op (s.memAnswer 0 ea) s.f
    let t := s.modifyIdxCb x d copy op
    t.byteAt ea = w.1 ∧ t.f = w.2 ∧ t.memptr = ea ∧ (∀ r, copy = some r → t.reg r = w.1)
      ∧ Issued [.readMem ea, .noRequestMem ea, .writeMem ea w.1] s t
      ∧ Frame ((copy.toList.map .reg) ++ [.f, .memptr]) [ea] s t := by
  intro ea w t
  have k := modify_spec { s with memptr := ea } ea op
  cases copy with
  | none =>
    refine ⟨k.2.2.1, k.2.1, k.2.2.2.2.1 .memptr (by simp), by simp, k.2.2.2.1, ?_⟩
    exact ((setMemptr_frame s ea).trans k.2.2.2.2).mono (by simp) (by simp)
  | some r =>
    have e : t = ({ s with memptr := ea }.modify ea op).2.setReg r ({ s with memptr := ea }.modify ea op).1 := rfl
    refine ⟨?_, ?_, ?_, ?_, ?_, ?_⟩
    · rw [e, setReg_byteAt]; exact k.2.2.1
    · rw [e, setReg_f]; exact k.2.1
    · rw [e, setReg_memptr]; exact k.2.2.2.2.1 .memptr (by simp)
    · intro q hq; cases hq; rw [e, setReg_reg, if_pos rfl]; exact k.1
    · have := k.2.2.2.1
      rw [e]; cases r <;> exact this
    · refine Frame.mono (ps := [.memptr] ++ [.f] ++ [.reg r]) (as := [] ++ [ea] ++ [])
        (Frame.trans ((setMemptr_frame s ea).trans k.2.2.2.2) ?_) (by simp) (by simp)
      rw [e]
      exact ⟨fun p hp => by cases p <;> simp_all [Part.same], fun b _ => by simp⟩

/-- The condition test of the model says what `CondTrue` says. -/
theorem condHolds_iff (cc : Cond) (f : Byte) : condHolds cc f = true ↔ CondTrue cc f := by
  cases cc <;> simp [condHolds, CondTrue]

theorem jrCondHolds_eq (cc : JrCond) (f : Byte) : jrCondHolds cc f = condHolds (jrCondition cc) f := by
  cases cc <;> rfl

/-! ## Memory keeps its canonical form -/

theorem memWrite_wf (s : State) (a : Word) (v : Byte) (h : s.mem.wf = true) : (s.memWrite a v).mem.wf = true :=
  Memory.wf_write a v h

theorem memWrite16_wf (s : State) (a v : Word) (h : s.mem.wf = true) : (s.memWrite16 a v).mem.wf = true :=
  memWrite_wf _ _ _ (memWrite_wf _ _ _ h)

theorem push16_wf (s : State) (v : Word) (h : s.mem.wf = true) : (s.push16 v).mem.wf = true := by
  rw [push16_eq]; exact memWrite_wf _ _ _ (memWrite_wf _ _ _ h)

theorem modify_wf (s : State) (a : Word) (op : Byte → Byte → Byte × Byte) (h : s.mem.wf = true) :
    (s.modify a op).2.mem.wf = true := memWrite_wf _ _ _ h

theorem modifyIdx_wf (s : State) (x : IdxReg) (d : Byte) (op : Byte → Byte → Byte × Byte)
    (h : s.mem.wf = true) : (s.modifyIdx x d op).mem.wf = true := modify_wf _ _ _ h

theorem modifyIdxCb_wf (s : State) (x : IdxReg) (d : Byte) (copy : Option Reg8)
    (op : Byte → Byte → Byte × Byte) (h : s.mem.wf = true) :
    (s.modifyIdxCb x d copy op).mem.wf = true := by
  cases copy with
  | none => exact modify_wf { s with memptr := s.idxAddr x d } _ _ h
  | some r =>
    have := modify_wf { s with memptr := s.idxAddr x d } (s.idxAddr x d) op h
    cases r <;> exact this

theorem enterInterrupt_wf (s : State) (ack : BusCall) (cost : Nat) (h : s.mem.wf = true) :
    (s.enterInterrupt ack cost).mem.wf = true := push16_wf _ _ h

end Sys2Proof.Machine
end

