-- ==== Sys2Proof/Laws/PerInstr.lean ====
section
/-! SUPPORT. The family `RoundTrip`, instruction by instruction: the four bytes at the front of a
well-formed instruction's encoding, whatever three bytes follow it, decode to it. -/

namespace Sys2Proof

/-- Every unofficial ED slot decodes to itself, whatever follows. -/
theorem decodeEd_unofficial (v b2 b3 : Byte) (h : unofficialEd v = true) :
    decodeEd v b2 b3 = .nopEd v := by
  have one : ∀ v : Byte, unofficialEd v = true → fieldX v = 1 → v = 0x77 ∨ v = 0x7F := by
    decide +kernel
  have two : ∀ v : Byte, unofficialEd v = true → fieldX v = 2 → decodeEd2 v = .nopEd v := by
    decide +kernel
  unfold decodeEd
  split
  · obtain rfl | rfl := one v h ‹_› <;> rfl
  · exact two v h ‹_›
  · rfl

/-- A byte is its eight flags. -/
theorem byte_eq_fbyte (v : Byte) :
    v = fbyte (flagS v) (flagZ v) (flagY v) (flagH v) (flagX v) (flagPV v) (flagN v) (flagC v) := by
  apply flags_ext <;> simp

/-- Before an opcode the DD/FD table does not change, the prefix stands alone, whatever follows. -/
theorem decodePrefixed_unaffected (x : IdxReg) (op b2 b3 : Byte) (h : indexAffected op = false) :
    decodePrefixed x op b2 b3 = .ignoredIndexPrefix x op := by
  revert h
  rw [byte_eq_fbyte op]
  cases flagS op <;> cases flagZ op <;> cases flagY op <;> cases flagH op <;> cases flagX op <;>
    cases flagPV op <;> cases flagN op <;> cases flagC op <;>
    first | exact fun _ => rfl | exact fun h => nomatch h

end Sys2Proof

namespace Sys2Proof.Laws.RoundTrip

open Sys2Proof

/-- What is said of each instruction. -/
def Statement (i : Instr) : Prop :=
  i.wellFormed = true → ∀ c d e : Byte,
    match encode i ++ [c, d, e] with
    | b0 :: b1 :: b2 :: b3 :: _ => decodeBytes b0 b1 b2 b3 = i
    | _ => False


theorem nop : Statement .nop :=
  fun _ _ _ _ => rfl

theorem ldDdNn (dd : PairSp) (nn : Word) : Statement (.ldDdNn dd nn) := by
  intro _ c d e
  cases dd <;>
  exact congrArg (Instr.ldDdNn _) (join_hiByte_loByte nn)

theorem addHlSs (ss : PairSp) : Statement (.addHlSs ss) := by
  intro _ c d e
  cases ss <;> rfl

theorem ldIndBcA : Statement .ldIndBcA :=
  fun _ _ _ _ => rfl

theorem ldAIndBc : Statement .ldAIndBc :=
  fun _ _ _ _ => rfl

theorem ldIndDeA : Statement .ldIndDeA :=
  fun _ _ _ _ => rfl

theorem ldAIndDe : Statement .ldAIndDe :=
  fun _ _ _ _ => rfl

theorem ldIndNnHl (nn : Word) : Statement (.ldIndNnHl nn) := by
  intro _ c d e
  exact congrArg (Instr.ldIndNnHl) (join_hiByte_loByte nn)

theorem ldHlIndNn (nn : Word) : Statement (.ldHlIndNn nn) := by
  intro _ c d e
  exact congrArg (Instr.ldHlIndNn) (join_hiByte_loByte nn)

theorem ldIndNnA (nn : Word) : Statement (.ldIndNnA nn) := by
  intro _ c d e
  exact congrArg (Instr.ldIndNnA) (join_hiByte_loByte nn)

theorem ldAIndNn (nn : Word) : Statement (.ldAIndNn nn) := by
  intro _ c d e
  exact congrArg (Instr.ldAIndNn) (join_hiByte_loByte nn)

theorem incSs (ss : PairSp) : Statement (.incSs ss) := by
  intro _ c d e
  cases ss <;> rfl

theorem decSs (ss : PairSp) : Statement (.decSs ss) := by
  intro _ c d e
  cases ss <;> rfl

theorem incR (r : Reg8) : Statement (.incR r) := by
  intro _ c d e
  cases r <;> rfl

theorem incIndHl : Statement .incIndHl :=
  fun _ _ _ _ => rfl

theorem decR (r : Reg8) : Statement (.decR r) := by
  intro _ c d e
  cases r <;> rfl

theorem decIndHl : Statement .decIndHl :=
  fun _ _ _ _ => rfl

theorem ldRN (r : Reg8) (n : Byte) : Statement (.ldRN r n) := by
  intro _ c d e
  cases r <;> rfl

theorem ldIndHlN (n : Byte) : Statement (.ldIndHlN n) :=
  fun _ _ _ _ => rfl

theorem rlca : Statement .rlca :=
  fun _ _ _ _ => rfl

theorem rrca : Statement .rrca :=
  fun _ _ _ _ => rfl

theorem rla : Statement .rla :=
  fun _ _ _ _ => rfl

theorem rra : Statement .rra :=
  fun _ _ _ _ => rfl

theorem daa : Statement .daa :=
  fun _ _ _ _ => rfl

theorem cpl : Statement .cpl :=
  fun _ _ _ _ => rfl

theorem scf : Statement .scf :=
  fun _ _ _ _ => rfl

theorem ccf : Statement .ccf :=
  fun _ _ _ _ => rfl

theorem exAfAf : Statement .exAfAf :=
  fun _ _ _ _ => rfl

theorem djnz (e : Byte) : Statement (.djnz e) :=
  fun _ _ _ _ => rfl

theorem jr (e : Byte) : Statement (.jr e) :=
  fun _ _ _ _ => rfl

theorem jrCc (cc : JrCond) (e : Byte) : Statement (.jrCc cc e) := by
  intro _ c d e
  cases cc <;> rfl

theorem halt : Statement .halt :=
  fun _ _ _ _ => rfl

theorem ldRR (r : Reg8) (r' : Reg8) : Statement (.ldRR r r') := by
  intro _ c d e
  cases r <;> cases r' <;> rfl

theorem ldRIndHl (r : Reg8) : Statement (.ldRIndHl r) := by
  intro _ c d e
  cases r <;> rfl

theorem ldIndHlR (r : Reg8) : Statement (.ldIndHlR r) := by
  intro _ c d e
  cases r <;> rfl

theorem addAR (r : Reg8) : Statement (.addAR r) := by
  intro _ c d e
  cases r <;> rfl

theorem addAIndHl : Statement .addAIndHl :=
  fun _ _ _ _ => rfl

theorem addAN (n : Byte) : Statement (.addAN n) :=
  fun _ _ _ _ => rfl

theorem adcAR (r : Reg8) : Statement (.adcAR r) := by
  intro _ c d e
  cases r <;> rfl

theorem adcAIndHl : Statement .adcAIndHl :=
  fun _ _ _ _ => rfl

theorem adcAN (n : Byte) : Statement (.adcAN n) :=
  fun _ _ _ _ => rfl

theorem subR (r : Reg8) : Statement (.subR r) := by
  intro _ c d e
  cases r <;> rfl

theorem subIndHl : Statement .subIndHl :=
  fun _ _ _ _ => rfl

theorem subN (n : Byte) : Statement (.subN n) :=
  fun _ _ _ _ => rfl

theorem sbcAR (r : Reg8) : Statement (.sbcAR r) := by
  intro _ c d e
  cases r <;> rfl

theorem sbcAIndHl : Statement .sbcAIndHl :=
  fun _ _ _ _ => rfl

theorem sbcAN (n : Byte) : Statement (.sbcAN n) :=
  fun _ _ _ _ => rfl

theorem andR (r : Reg8) : Statement (.andR r) := by
  intro _ c d e
  cases r <;> rfl

theorem andIndHl : Statement .andIndHl :=
  fun _ _ _ _ => rfl

theorem andN (n : Byte) : Statement (.andN n) :=
  fun _ _ _ _ => rfl

theorem xorR (r : Reg8) : Statement (.xorR r) := by
  intro _ c d e
  cases r <;> rfl

theorem xorIndHl : Statement .xorIndHl :=
  fun _ _ _ _ => rfl

theorem xorN (n : Byte) : Statement (.xorN n) :=
  fun _ _ _ _ => rfl

theorem orR (r : Reg8) : Statement (.orR r) := by
  intro _ c d e
  cases r <;> rfl

theorem orIndHl : Statement .orIndHl :=
  fun _ _ _ _ => rfl

theorem orN (n : Byte) : Statement (.orN n) :=
  fun _ _ _ _ => rfl

theorem cpR (r : Reg8) : Statement (.cpR r) := by
  intro _ c d e
  cases r <;> rfl

theorem cpIndHl : Statement .cpIndHl :=
  fun _ _ _ _ => rfl

theorem cpN (n : Byte) : Statement (.cpN n) :=
  fun _ _ _ _ => rfl

theorem retCc (cc : Cond) : Statement (.retCc cc) := by
  intro _ c d e
  cases cc <;> rfl

theorem popQq (qq : PairAf) : Statement (.popQq qq) := by
  intro _ c d e
  cases qq <;> rfl

theorem ret : Statement .ret :=
  fun _ _ _ _ => rfl

theorem exx : Statement .exx :=
  fun _ _ _ _ => rfl

theorem jpIndHl : Statement .jpIndHl :=
  fun _ _ _ _ => rfl

theorem ldSpHl : Statement .ldSpHl :=
  fun _ _ _ _ => rfl

theorem jpCcNn (cc : Cond) (nn : Word) : Statement (.jpCcNn cc nn) := by
  intro _ c d e
  cases cc <;>
  exact congrArg (Instr.jpCcNn _) (join_hiByte_loByte nn)

theorem jpNn (nn : Word) : Statement (.jpNn nn) := by
  intro _ c d e
  exact congrArg (Instr.jpNn) (join_hiByte_loByte nn)

theorem outIndNA (n : Byte) : Statement (.outIndNA n) :=
  fun _ _ _ _ => rfl

theorem inAIndN (n : Byte) : Statement (.inAIndN n) :=
  fun _ _ _ _ => rfl

theorem exIndSpHl : Statement .exIndSpHl :=
  fun _ _ _ _ => rfl

theorem exDeHl : Statement .exDeHl :=
  fun _ _ _ _ => rfl

theorem di : Statement .di :=
  fun _ _ _ _ => rfl

theorem ei : Statement .ei :=
  fun _ _ _ _ => rfl

theorem callCcNn (cc : Cond) (nn : Word) : Statement (.callCcNn cc nn) := by
  intro _ c d e
  cases cc <;>
  exact congrArg (Instr.callCcNn _) (join_hiByte_loByte nn)

theorem pushQq (qq : PairAf) : Statement (.pushQq qq) := by
  intro _ c d e
  cases qq <;> rfl

theorem callNn (nn : Word) : Statement (.callNn nn) := by
  intro _ c d e
  exact congrArg (Instr.callNn) (join_hiByte_loByte nn)

theorem rst (t : Fin 8) : Statement (.rst t) := by
  intro _ c d e
  match t with | 0 | 1 | 2 | 3 | 4 | 5 | 6 | 7 => rfl

theorem rlcR (r : Reg8) : Statement (.rlcR r) := by
  intro _ c d e
  cases r <;> rfl

theorem rlcIndHl : Statement .rlcIndHl :=
  fun _ _ _ _ => rfl

theorem rrcR (r : Reg8) : Statement (.rrcR r) := by
  intro _ c d e
  cases r <;> rfl

theorem rrcIndHl : Statement .rrcIndHl :=
  fun _ _ _ _ => rfl

theorem rlR (r : Reg8) : Statement (.rlR r) := by
  intro _ c d e
  cases r <;> rfl

theorem rlIndHl : Statement .rlIndHl :=
  fun _ _ _ _ => rfl

theorem rrR (r : Reg8) : Statement (.rrR r) := by
  intro _ c d e
  cases r <;> rfl

theorem rrIndHl : Statement .rrIndHl :=
  fun _ _ _ _ => rfl

theorem slaR (r : Reg8) : Statement (.slaR r) := by
  intro _ c d e
  cases r <;> rfl

theorem slaIndHl : Statement .slaIndHl :=
  fun _ _ _ _ => rfl

theorem sraR (r : Reg8) : Statement (.sraR r) := by
  intro _ c d e
  cases r <;> rfl

theorem sraIndHl : Statement .sraIndHl :=
  fun _ _ _ _ => rfl

theorem sllR (r : Reg8) : Statement (.sllR r) := by
  intro _ c d e
  cases r <;> rfl

theorem sllIndHl : Statement .sllIndHl :=
  fun _ _ _ _ => rfl

theorem srlR (r : Reg8) : Statement (.srlR r) := by
  intro _ c d e
  cases r <;> rfl

theorem srlIndHl : Statement .srlIndHl :=
  fun _ _ _ _ => rfl

theorem bitBR (b : Fin 8) (r : Reg8) : Statement (.bitBR b r) := by
  intro _ c d e
  cases r <;>
    match b with | 0 | 1 | 2 | 3 | 4 | 5 | 6 | 7 => rfl

theorem bitBIndHl (b : Fin 8) : Statement (.bitBIndHl b) := by
  intro _ c d e
  match b with | 0 | 1 | 2 | 3 | 4 | 5 | 6 | 7 => rfl

theorem resBR (b : Fin 8) (r : Reg8) : Statement (.resBR b r) := by
  intro _ c d e
  cases r <;>
    match b with | 0 | 1 | 2 | 3 | 4 | 5 | 6 | 7 => rfl

theorem resBIndHl (b : Fin 8) : Statement (.resBIndHl b) := by
  intro _ c d e
  match b with | 0 | 1 | 2 | 3 | 4 | 5 | 6 | 7 => rfl

theorem setBR (b : Fin 8) (r : Reg8) : Statement (.setBR b r) := by
  intro _ c d e
  cases r <;>
    match b with | 0 | 1 | 2 | 3 | 4 | 5 | 6 | 7 => rfl

theorem setBIndHl (b : Fin 8) : Statement (.setBIndHl b) := by
  intro _ c d e
  match b with | 0 | 1 | 2 | 3 | 4 | 5 | 6 | 7 => rfl

theorem inRIndC (r : Reg8) : Statement (.inRIndC r) := by
  intro _ c d e
  cases r <;> rfl

theorem inIndC : Statement .inIndC :=
  fun _ _ _ _ => rfl

theorem outIndCR (r : Reg8) : Statement (.outIndCR r) := by
  intro _ c d e
  cases r <;> rfl

theorem outIndCZero : Statement .outIndCZero :=
  fun _ _ _ _ => rfl

theorem sbcHlSs (ss : PairSp) : Statement (.sbcHlSs ss) := by
  intro _ c d e
  cases ss <;> rfl

theorem adcHlSs (ss : PairSp) : Statement (.adcHlSs ss) := by
  intro _ c d e
  cases ss <;> rfl

theorem ldIndNnDd (dd : PairSp) (nn : Word) : Statement (.ldIndNnDd dd nn) := by
  intro _ c d e
  cases dd <;>
  exact congrArg (Instr.ldIndNnDd _) (join_hiByte_loByte nn)

theorem ldDdIndNn (dd : PairSp) (nn : Word) : Statement (.ldDdIndNn dd nn) := by
  intro _ c d e
  cases dd <;>
  exact congrArg (Instr.ldDdIndNn _) (join_hiByte_loByte nn)

theorem neg (v : Fin 8) : Statement (.neg v) := by
  intro _ c d e
  match v with | 0 | 1 | 2 | 3 | 4 | 5 | 6 | 7 => rfl

theorem retn (v : Fin 8) : Statement (.retn v) := by
  intro h c d e
  revert h
  match v with | 0 | 2 | 3 | 4 | 5 | 6 | 7 => exact fun _ => rfl | 1 => exact fun h => nomatch h

theorem reti : Statement .reti :=
  fun _ _ _ _ => rfl

theorem imZero (v : Fin 4) : Statement (.imZero v) := by
  intro _ c d e
  match v with | 0 | 1 | 2 | 3 => rfl

theorem imOne (v : Fin 2) : Statement (.imOne v) := by
  intro _ c d e
  match v with | 0 | 1 => rfl

theorem imTwo (v : Fin 2) : Statement (.imTwo v) := by
  intro _ c d e
  match v with | 0 | 1 => rfl

theorem ldVectorA : Statement .ldVectorA :=
  fun _ _ _ _ => rfl

theorem ldRefreshA : Statement .ldRefreshA :=
  fun _ _ _ _ => rfl

theorem ldAVector : Statement .ldAVector :=
  fun _ _ _ _ => rfl

theorem ldARefresh : Statement .ldARefresh :=
  fun _ _ _ _ => rfl

theorem rrd : Statement .rrd :=
  fun _ _ _ _ => rfl

theorem rld : Statement .rld :=
  fun _ _ _ _ => rfl

theorem ldi : Statement .ldi :=
  fun _ _ _ _ => rfl

theorem cpi : Statement .cpi :=
  fun _ _ _ _ => rfl

theorem ini : Statement .ini :=
  fun _ _ _ _ => rfl

theorem outi : Statement .outi :=
  fun _ _ _ _ => rfl

theorem ldd : Statement .ldd :=
  fun _ _ _ _ => rfl

theorem cpd : Statement .cpd :=
  fun _ _ _ _ => rfl

theorem ind : Statement .ind :=
  fun _ _ _ _ => rfl

theorem outd : Statement .outd :=
  fun _ _ _ _ => rfl

theorem ldir : Statement .ldir :=
  fun _ _ _ _ => rfl

theorem cpir : Statement .cpir :=
  fun _ _ _ _ => rfl

theorem inir : Statement .inir :=
  fun _ _ _ _ => rfl

theorem otir : Statement .otir :=
  fun _ _ _ _ => rfl

theorem lddr : Statement .lddr :=
  fun _ _ _ _ => rfl

theorem cpdr : Statement .cpdr :=
  fun _ _ _ _ => rfl

theorem indr : Statement .indr :=
  fun _ _ _ _ => rfl

theorem otdr : Statement .otdr :=
  fun _ _ _ _ => rfl

theorem nopEd (v : Byte) : Statement (.nopEd v) :=
  fun h c d _ => decodeEd_unofficial v c d h

theorem addIdxPp (x : IdxReg) (pp : PairIdx) : Statement (.addIdxPp x pp) := by
  intro _ c d e
  cases x <;> cases pp <;> rfl

theorem ldIdxNn (x : IdxReg) (nn : Word) : Statement (.ldIdxNn x nn) := by
  intro _ c d e
  cases x <;>
  exact congrArg (Instr.ldIdxNn _) (join_hiByte_loByte nn)

theorem ldIndNnIdx (x : IdxReg) (nn : Word) : Statement (.ldIndNnIdx x nn) := by
  intro _ c d e
  cases x <;>
  exact congrArg (Instr.ldIndNnIdx _) (join_hiByte_loByte nn)

theorem ldIdxIndNn (x : IdxReg) (nn : Word) : Statement (.ldIdxIndNn x nn) := by
  intro _ c d e
  cases x <;>
  exact congrArg (Instr.ldIdxIndNn _) (join_hiByte_loByte nn)

theorem incIdx (x : IdxReg) : Statement (.incIdx x) := by
  intro _ c d e
  cases x <;> rfl

theorem decIdx (x : IdxReg) : Statement (.decIdx x) := by
  intro _ c d e
  cases x <;> rfl

theorem incIdxHalf (x : IdxReg) (h : Half) : Statement (.incIdxHalf x h) := by
  intro _ c d e
  cases x <;> cases h <;> rfl

theorem decIdxHalf (x : IdxReg) (h : Half) : Statement (.decIdxHalf x h) := by
  intro _ c d e
  cases x <;> cases h <;> rfl

theorem ldIdxHalfN (x : IdxReg) (h : Half) (n : Byte) : Statement (.ldIdxHalfN x h n) := by
  intro _ c d e
  cases x <;> cases h <;> rfl

theorem incIndIdx (x : IdxReg) (d : Byte) : Statement (.incIndIdx x d) := by
  intro _ c d e
  cases x <;> rfl

theorem decIndIdx (x : IdxReg) (d : Byte) : Statement (.decIndIdx x d) := by
  intro _ c d e
  cases x <;> rfl

theorem ldIndIdxN (x : IdxReg) (d : Byte) (n : Byte) : Statement (.ldIndIdxN x d n) := by
  intro _ c d e
  cases x <;> rfl

theorem ldRIndIdx (x : IdxReg) (r : Reg8) (d : Byte) : Statement (.ldRIndIdx x r d) := by
  intro _ c d e
  cases x <;> cases r <;> rfl

theorem ldIndIdxR (x : IdxReg) (d : Byte) (r : Reg8) : Statement (.ldIndIdxR x d r) := by
  intro _ c d e
  cases x <;> cases r <;> rfl

theorem ldRIdxHalf (x : IdxReg) (r : Reg8) (h : Half) : Statement (.ldRIdxHalf x r h) := by
  intro hw c d e
  cases x <;> cases r <;> cases h <;> first | rfl | cases hw

theorem ldIdxHalfR (x : IdxReg) (h : Half) (r : Reg8) : Statement (.ldIdxHalfR x h r) := by
  intro hw c d e
  cases x <;> cases h <;> cases r <;> first | rfl | cases hw

theorem ldIdxHalfIdxHalf (x : IdxReg) (h : Half) (h' : Half) : Statement (.ldIdxHalfIdxHalf x h h') := by
  intro _ c d e
  cases x <;> cases h <;> cases h' <;> rfl

theorem addAIdxHalf (x : IdxReg) (h : Half) : Statement (.addAIdxHalf x h) := by
  intro _ c d e
  cases x <;> cases h <;> rfl

theorem addAIndIdx (x : IdxReg) (d : Byte) : Statement (.addAIndIdx x d) := by
  intro _ c d e
  cases x <;> rfl

theorem adcAIdxHalf (x : IdxReg) (h : Half) : Statement (.adcAIdxHalf x h) := by
  intro _ c d e
  cases x <;> cases h <;> rfl

theorem adcAIndIdx (x : IdxReg) (d : Byte) : Statement (.adcAIndIdx x d) := by
  intro _ c d e
  cases x <;> rfl

theorem subIdxHalf (x : IdxReg) (h : Half) : Statement (.subIdxHalf x h) := by
  intro _ c d e
  cases x <;> cases h <;> rfl

theorem subIndIdx (x : IdxReg) (d : Byte) : Statement (.subIndIdx x d) := by
  intro _ c d e
  cases x <;> rfl

theorem sbcAIdxHalf (x : IdxReg) (h : Half) : Statement (.sbcAIdxHalf x h) := by
  intro _ c d e
  cases x <;> cases h <;> rfl

theorem sbcAIndIdx (x : IdxReg) (d : Byte) : Statement (.sbcAIndIdx x d) := by
  intro _ c d e
  cases x <;> rfl

theorem andIdxHalf (x : IdxReg) (h : Half) : Statement (.andIdxHalf x h) := by
  intro _ c d e
  cases x <;> cases h <;> rfl

theorem andIndIdx (x : IdxReg) (d : Byte) : Statement (.andIndIdx x d) := by
  intro _ c d e
  cases x <;> rfl

theorem xorIdxHalf (x : IdxReg) (h : Half) : Statement (.xorIdxHalf x h) := by
  intro _ c d e
  cases x <;> cases h <;> rfl

theorem xorIndIdx (x : IdxReg) (d : Byte) : Statement (.xorIndIdx x d) := by
  intro _ c d e
  cases x <;> rfl

theorem orIdxHalf (x : IdxReg) (h : Half) : Statement (.orIdxHalf x h) := by
  intro _ c d e
  cases x <;> cases h <;> rfl

theorem orIndIdx (x : IdxReg) (d : Byte) : Statement (.orIndIdx x d) := by
  intro _ c d e
  cases x <;> rfl

theorem cpIdxHalf (x : IdxReg) (h : Half) : Statement (.cpIdxHalf x h) := by
  intro _ c d e
  cases x <;> cases h <;> rfl

theorem cpIndIdx (x : IdxReg) (d : Byte) : Statement (.cpIndIdx x d) := by
  intro _ c d e
  cases x <;> rfl

theorem popIdx (x : IdxReg) : Statement (.popIdx x) := by
  intro _ c d e
  cases x <;> rfl

theorem exIndSpIdx (x : IdxReg) : Statement (.exIndSpIdx x) := by
  intro _ c d e
  cases x <;> rfl

theorem pushIdx (x : IdxReg) : Statement (.pushIdx x) := by
  intro _ c d e
  cases x <;> rfl

theorem jpIndIdx (x : IdxReg) : Statement (.jpIndIdx x) := by
  intro _ c d e
  cases x <;> rfl

theorem ldSpIdx (x : IdxReg) : Statement (.ldSpIdx x) := by
  intro _ c d e
  cases x <;> rfl

theorem ignoredIndexPrefix (x : IdxReg) (op : Byte) : Statement (.ignoredIndexPrefix x op) := by
  intro h c d _
  have h : indexAffected op = false := by simpa [Instr.wellFormed] using h
  have k := decodePrefixed_unaffected x op c d h
  cases x <;> exact k

theorem rlcIndIdx (x : IdxReg) (d : Byte) : Statement (.rlcIndIdx x d) := by
  intro _ c d e
  cases x <;> rfl

theorem rlcIndIdxR (x : IdxReg) (d : Byte) (r : Reg8) : Statement (.rlcIndIdxR x d r) := by
  intro _ c d e
  cases x <;> cases r <;> rfl

theorem rrcIndIdx (x : IdxReg) (d : Byte) : Statement (.rrcIndIdx x d) := by
  intro _ c d e
  cases x <;> rfl

theorem rrcIndIdxR (x : IdxReg) (d : Byte) (r : Reg8) : Statement (.rrcIndIdxR x d r) := by
  intro _ c d e
  cases x <;> cases r <;> rfl

theorem rlIndIdx (x : IdxReg) (d : Byte) : Statement (.rlIndIdx x d) := by
  intro _ c d e
  cases x <;> rfl

theorem rlIndIdxR (x : IdxReg) (d : Byte) (r : Reg8) : Statement (.rlIndIdxR x d r) := by
  intro _ c d e
  cases x <;> cases r <;> rfl

theorem rrIndIdx (x : IdxReg) (d : Byte) : Statement (.rrIndIdx x d) := by
  intro _ c d e
  cases x <;> rfl

theorem rrIndIdxR (x : IdxReg) (d : Byte) (r : Reg8) : Statement (.rrIndIdxR x d r) := by
  intro _ c d e
  cases x <;> cases r <;> rfl

theorem slaIndIdx (x : IdxReg) (d : Byte) : Statement (.slaIndIdx x d) := by
  intro _ c d e
  cases x <;> rfl

theorem slaIndIdxR (x : IdxReg) (d : Byte) (r : Reg8) : Statement (.slaIndIdxR x d r) := by
  intro _ c d e
  cases x <;> cases r <;> rfl

theorem sraIndIdx (x : IdxReg) (d : Byte) : Statement (.sraIndIdx x d) := by
  intro _ c d e
  cases x <;> rfl

theorem sraIndIdxR (x : IdxReg) (d : Byte) (r : Reg8) : Statement (.sraIndIdxR x d r) := by
  intro _ c d e
  cases x <;> cases r <;> rfl

theorem sllIndIdx (x : IdxReg) (d : Byte) : Statement (.sllIndIdx x d) := by
  intro _ c d e
  cases x <;> rfl

theorem sllIndIdxR (x : IdxReg) (d : Byte) (r : Reg8) : Statement (.sllIndIdxR x d r) := by
  intro _ c d e
  cases x <;> cases r <;> rfl

theorem srlIndIdx (x : IdxReg) (d : Byte) : Statement (.srlIndIdx x d) := by
  intro _ c d e
  cases x <;> rfl

theorem srlIndIdxR (x : IdxReg) (d : Byte) (r : Reg8) : Statement (.srlIndIdxR x d r) := by
  intro _ c d e
  cases x <;> cases r <;> rfl

theorem bitBIndIdx (x : IdxReg) (d : Byte) (b : Fin 8) (z : Fin 8) : Statement (.bitBIndIdx x d b z) := by
  intro _ c d e
  cases x <;>
    match b with
    | 0 | 1 | 2 | 3 | 4 | 5 | 6 | 7 => match z with | 0 | 1 | 2 | 3 | 4 | 5 | 6 | 7 => rfl

theorem resBIndIdx (x : IdxReg) (d : Byte) (b : Fin 8) : Statement (.resBIndIdx x d b) := by
  intro _ c d e
  cases x <;>
    match b with | 0 | 1 | 2 | 3 | 4 | 5 | 6 | 7 => rfl

theorem resBIndIdxR (x : IdxReg) (d : Byte) (b : Fin 8) (r : Reg8) : Statement (.resBIndIdxR x d b r) := by
  intro _ c d e
  cases x <;> cases r <;>
    match b with | 0 | 1 | 2 | 3 | 4 | 5 | 6 | 7 => rfl

theorem setBIndIdx (x : IdxReg) (d : Byte) (b : Fin 8) : Statement (.setBIndIdx x d b) := by
  intro _ c d e
  cases x <;>
    match b with | 0 | 1 | 2 | 3 | 4 | 5 | 6 | 7 => rfl

theorem setBIndIdxR (x : IdxReg) (d : Byte) (b : Fin 8) (r : Reg8) : Statement (.setBIndIdxR x d b r) := by
  intro _ c d e
  cases x <;> cases r <;>
    match b with | 0 | 1 | 2 | 3 | 4 | 5 | 6 | 7 => rfl

end Sys2Proof.Laws.RoundTrip
end

