-- ==== Sys2Proof/Laws/Step.lean ====
section
/-! SUPPORT. What a step is in each of its cases, said once: a signal service, a halted cycle, or the run of
one instruction; and what fetching does. Proofs about `step` cite these and never unfold it. -/

namespace Sys2Proof.Machine

open Sys2Proof

/-! ## Which case -/

/-- Exactly one of the four cases of the signal check holds; this is the "at least one". -/
theorem signal_cases (s : State) :
    s.takesReset = true ∨ s.takesNmi = true ∨ s.takesInt = true ∨ s.noSignal = true := by
  cases h : s.takesReset <;> cases k : s.takesNmi <;> cases l : s.takesInt <;>
    simp [State.noSignal, h, k, l]

theorem step_reset (s : State) (h : s.takesReset = true) : step s = .next s.serviceReset := by
  rw [State.takesReset] at h
  rw [step, State.stepWith, if_pos h]

theorem step_nmi (s : State) (h : s.takesNmi = true) : step s = .next s.serviceNmi := by
  simp only [State.takesNmi, Bool.and_eq_true, Bool.not_eq_true'] at h
  rw [step, State.stepWith, if_neg (by simp [h]), if_pos (by simp [h])]

/-- Without a RESET, the NMI line of the signal check is `takesNmi`. -/
theorem nmi_line (s : State) (h : s.takesReset = false) :
    (s.nmiRequested && s.pendingIndex.isNone) = s.takesNmi := by
  rw [State.takesReset] at h
  simp [State.takesNmi, h]

/-- Without a RESET and an NMI, the INT line of the signal check is `takesInt`. -/
theorem int_line (s : State) (h : s.takesReset = false) (k : s.takesNmi = false) :
    (s.intRequested && s.iff1 && !s.intBlocked && s.pendingIndex.isNone) = s.takesInt := by
  simp [State.takesInt, h, k]

theorem step_int (s : State) (h : s.takesInt = true) : step s = .next s.serviceInt := by
  have hr : s.takesReset = false := by
    cases k : s.takesReset with
    | false => rfl
    | true => simp [State.takesInt, k] at h
  have hn : s.takesNmi = false := by
    cases k : s.takesNmi with
    | false => rfl
    | true => simp [State.takesInt, k] at h
  rw [step, State.stepWith, nmi_line s hr, int_line s hr hn, hn, h]
  rw [State.takesReset] at hr
  simp [hr]

/-- With no signal to service the step is that of the halted cycle or of the next instruction. -/
theorem step_noSignal (s : State) (h : s.noSignal = true) :
    step s = if s.halted = true then .next { s with intBlocked := false }.haltedCycle
      else { s with intBlocked := false }.runNext exec := by
  simp only [State.noSignal, Bool.and_eq_true, Bool.not_eq_true'] at h
  obtain ⟨⟨hr, hn⟩, hi⟩ := h
  rw [step, State.stepWith, nmi_line s hr, int_line s hr hn, hn, hi]
  rw [State.takesReset] at hr
  rw [if_neg (by simp [hr]), if_neg (by simp), if_neg (by simp)]

theorem step_halted (s : State) (h : s.noSignal = true) (hh : s.halted = true) :
    step s = .next { s with intBlocked := false }.haltedCycle := by
  rw [step_noSignal s h, if_pos hh]

theorem step_runs (s : State) (h : s.noSignal = true) (hh : s.halted = false) :
    step s = { s with intBlocked := false }.runNext exec := by
  rw [step_noSignal s h, if_neg (by simp [hh])]

/-! ## Running the next instruction -/

/-- An instruction after which the step does not go on is the whole of the step. -/
theorem runNext_stops (s : State) (h : goesOn s.nextInstr = false) :
    s.runNext exec = exec s.nextInstr (s.fetchInstr s.nextInstr) := by
  simp only [State.runNext]
  split
  · rename_i t ht
    rw [h, if_neg (by simp), ht]
  · rfl

/-- The one instruction after which the step goes on is an index prefix ignored by the next byte, which
is no index prefix. -/
theorem goesOn_iff (i : Instr) :
    goesOn i = true ↔ ∃ x op, i = .ignoredIndexPrefix x op ∧ isIndexPrefix op = false := by
  cases i <;> simp [goesOn]

/-- A step that goes on runs the instruction behind the ignored prefix, and nothing else. -/
theorem runNext_goesOn (s : State) (h : goesOn s.nextInstr = true) :
    let s1 := s.fetchInstr s.nextInstr
    s.runNext exec = exec s1.nextInstr (s1.fetchInstr s1.nextInstr) := by
  obtain ⟨x, op, hi, hop⟩ := (goesOn_iff _).1 h
  have e : ∀ u : State, exec (.ignoredIndexPrefix x op) u = .next u := fun u => by
    simp [exec, execIgnoredIndexPrefix, hop]
  simp only [State.runNext, hi, e]
  rw [hi] at h
  rw [h, if_pos rfl]

/-- After the prefix and the state `runsInstr` names, the step is `exec` of that instruction. -/
theorem step_runsInstr (s : State) (h : s.noSignal = true) (hh : s.halted = false) :
    step s = exec s.runsInstr.1 s.runsInstr.2 := by
  rw [step_runs s h hh, State.runsInstr]
  split
  · rename_i hg; exact runNext_goesOn _ hg
  · rename_i hg; exact runNext_stops _ (by simpa using hg)

/-! ## Fetching -/

/-- n M1 fetches: n opcode fetches from PC up, PC n further, and nothing else but R. -/
theorem fetchM1s_spec (n : Nat) (s : State) :
    (State.fetchM1s n s).pc = s.pc + BitVec.ofNat 16 n
      ∧ Issued ((List.range n).map fun k => .readFetch (s.pc + BitVec.ofNat 16 k)) s (State.fetchM1s n s)
      ∧ Frame [.pc, .refresh] [] s (State.fetchM1s n s) := by
  induction n generalizing s with
  | zero => exact ⟨by simp [State.fetchM1s], Issued.refl s, (Frame.refl s).mono (by simp) (by simp)⟩
  | succ n ih =>
    have h := fetchM1_spec s
    have k := ih s.fetchM1
    have hpc : ∀ m : Nat, s.fetchM1.pc + BitVec.ofNat 16 m = s.pc + BitVec.ofNat 16 (m + 1) := fun m => by
      rw [h.1]; apply BitVec.eq_of_toNat_eq; simp; omega
    refine ⟨?_, ?_, (h.2.2.2.trans k.2.2).mono (by simp) (by simp)⟩
    · rw [State.fetchM1s, k.1, hpc]
    · have := h.2.2.1.trans k.2.1
      simp only [hpc] at this
      simpa [State.fetchM1s, List.range_succ_eq_map, Function.comp_def] using this

theorem fetchM1s_wf (n : Nat) (s : State) (h : s.mem.wf = true) : (State.fetchM1s n s).mem.wf = true := by
  induction n generalizing s with
  | zero => exact h
  | succ n ih => exact ih s.fetchM1 h

/-- M1 fetches use up as many answers as they are. -/
theorem fetchM1s_memAnswer (n k : Nat) (s : State) (a : Word) :
    (State.fetchM1s n s).memAnswer k a = s.memAnswer (n + k) a := by
  rw [(fetchM1s_spec n s).2.1.memAnswer (fetchM1s_spec n s).2.2]
  congr 1
  simp [List.countP_map, Function.comp_def, isMemRead]

/-- Fetching an instruction writes no memory. -/
theorem fetchInstr_mem (s : State) (i : Instr) : (s.fetchInstr i).mem = s.mem := by
  have h : ∀ n (u : State), (State.fetchM1s n u).mem = u.mem := fun n => by
    induction n with
    | zero => exact fun _ => rfl
    | succ n ih => exact fun u => ih u.fetchM1
  simp only [State.fetchInstr]
  split <;> simp [h]

end Sys2Proof.Machine
end

