-- ==== Sys2Proof/Tests/Slice0.lean ====
section
/-! SUPPORT. The model's own tests: what is ill-formed is refused; a word of every row of
spec/opcode_table.json, written out from the row's bit pattern, decodes to it; one step of every
instruction against the spec's worked examples and vectors (each test names its source); the
signals against 95_test_vectors.md 4.1; and a witness for the hypotheses of each statement that has
any. No expected result comes from the model. -/

open Sys2Proof Sys2Proof.Machine

/-! ## Well-formedness -/

theorem test_wf_refuses_reti_as_retn : Instr.wellFormed (.retn 1) = false := by decide

theorem test_wf_refuses_official_ed_slot :
    Instr.wellFormed (.nopEd 0x44) = false ∧ Instr.wellFormed (.nopEd 0xB0) = false := by decide

theorem test_wf_refuses_h_and_l_beside_an_index_half :
    Instr.wellFormed (.ldRIdxHalf .ix .h .low) = false ∧ Instr.wellFormed (.ldRIdxHalf .ix .l .low) = false
    ∧ Instr.wellFormed (.ldIdxHalfR .iy .high .h) = false
    ∧ Instr.wellFormed (.ldIdxHalfR .iy .high .l) = false := by decide

theorem test_wf_refuses_ignored_prefix_of_an_affected_opcode :
    Instr.wellFormed (.ignoredIndexPrefix .ix 0x21) = false
    ∧ Instr.wellFormed (.ignoredIndexPrefix .ix 0xCB) = false := by decide

/-! ## Decoding: a word of each row of spec/opcode_table.json, from its bit pattern -/

theorem test_decode_base_quadrant_zero_part_a :
    decodeBytes 0x00 0x00 0x00 0x00 = .nop
    ∧ decodeBytes 0x21 0x4D 0xCA 0x00 = .ldDdNn .hl 0xCA4D
    ∧ decodeBytes 0x09 0x00 0x00 0x00 = .addHlSs .bc
    ∧ decodeBytes 0x02 0x00 0x00 0x00 = .ldIndBcA
    ∧ decodeBytes 0x0A 0x00 0x00 0x00 = .ldAIndBc
    ∧ decodeBytes 0x12 0x00 0x00 0x00 = .ldIndDeA
    ∧ decodeBytes 0x1A 0x00 0x00 0x00 = .ldAIndDe
    ∧ decodeBytes 0x22 0x25 0x30 0x00 = .ldIndNnHl 0x3025
    ∧ decodeBytes 0x2A 0xBB 0x1D 0x00 = .ldHlIndNn 0x1DBB
    ∧ decodeBytes 0x32 0x6D 0x13 0x00 = .ldIndNnA 0x136D
    ∧ decodeBytes 0x3A 0x2C 0xDE 0x00 = .ldAIndNn 0xDE2C
    ∧ decodeBytes 0x33 0x00 0x00 0x00 = .incSs .sp
    ∧ decodeBytes 0x0B 0x00 0x00 0x00 = .decSs .bc
    ∧ decodeBytes 0x1C 0x00 0x00 0x00 = .incR .e
    ∧ decodeBytes 0x34 0x00 0x00 0x00 = .incIndHl
    ∧ decodeBytes 0x0D 0x00 0x00 0x00 = .decR .c := by
  decide

theorem test_decode_base_quadrant_zero_part_b :
    decodeBytes 0x35 0x00 0x00 0x00 = .decIndHl
    ∧ decodeBytes 0x0E 0x72 0x00 0x00 = .ldRN .c 0x72
    ∧ decodeBytes 0x36 0x1F 0x00 0x00 = .ldIndHlN 0x1F
    ∧ decodeBytes 0x07 0x00 0x00 0x00 = .rlca
    ∧ decodeBytes 0x0F 0x00 0x00 0x00 = .rrca
    ∧ decodeBytes 0x17 0x00 0x00 0x00 = .rla
    ∧ decodeBytes 0x1F 0x00 0x00 0x00 = .rra
    ∧ decodeBytes 0x27 0x00 0x00 0x00 = .daa
    ∧ decodeBytes 0x2F 0x00 0x00 0x00 = .cpl
    ∧ decodeBytes 0x37 0x00 0x00 0x00 = .scf
    ∧ decodeBytes 0x3F 0x00 0x00 0x00 = .ccf
    ∧ decodeBytes 0x08 0x00 0x00 0x00 = .exAfAf
    ∧ decodeBytes 0x10 0xCB 0x00 0x00 = .djnz 0xCB
    ∧ decodeBytes 0x18 0x19 0x00 0x00 = .jr 0x19
    ∧ decodeBytes 0x28 0x17 0x00 0x00 = .jrCc .z 0x17 := by
  decide

theorem test_decode_base_quadrants_one_and_two_part_a :
    decodeBytes 0x76 0x00 0x00 0x00 = .halt
    ∧ decodeBytes 0x54 0x00 0x00 0x00 = .ldRR .d .h
    ∧ decodeBytes 0x56 0x00 0x00 0x00 = .ldRIndHl .d
    ∧ decodeBytes 0x71 0x00 0x00 0x00 = .ldIndHlR .c
    ∧ decodeBytes 0x84 0x00 0x00 0x00 = .addAR .h
    ∧ decodeBytes 0x86 0x00 0x00 0x00 = .addAIndHl
    ∧ decodeBytes 0xC6 0x5C 0x00 0x00 = .addAN 0x5C
    ∧ decodeBytes 0x89 0x00 0x00 0x00 = .adcAR .c
    ∧ decodeBytes 0x8E 0x00 0x00 0x00 = .adcAIndHl
    ∧ decodeBytes 0xCE 0x60 0x00 0x00 = .adcAN 0x60
    ∧ decodeBytes 0x95 0x00 0x00 0x00 = .subR .l
    ∧ decodeBytes 0x96 0x00 0x00 0x00 = .subIndHl
    ∧ decodeBytes 0xD6 0x31 0x00 0x00 = .subN 0x31
    ∧ decodeBytes 0x99 0x00 0x00 0x00 = .sbcAR .c
    ∧ decodeBytes 0x9E 0x00 0x00 0x00 = .sbcAIndHl
    ∧ decodeBytes 0xDE 0x1E 0x00 0x00 = .sbcAN 0x1E := by
  decide

theorem test_decode_base_quadrants_one_and_two_part_b :
    decodeBytes 0xA3 0x00 0x00 0x00 = .andR .e
    ∧ decodeBytes 0xA6 0x00 0x00 0x00 = .andIndHl
    ∧ decodeBytes 0xE6 0xFE 0x00 0x00 = .andN 0xFE
    ∧ decodeBytes 0xAD 0x00 0x00 0x00 = .xorR .l
    ∧ decodeBytes 0xAE 0x00 0x00 0x00 = .xorIndHl
    ∧ decodeBytes 0xEE 0xEE 0x00 0x00 = .xorN 0xEE
    ∧ decodeBytes 0xB7 0x00 0x00 0x00 = .orR .a
    ∧ decodeBytes 0xB6 0x00 0x00 0x00 = .orIndHl
    ∧ decodeBytes 0xF6 0xB9 0x00 0x00 = .orN 0xB9
    ∧ decodeBytes 0xBC 0x00 0x00 0x00 = .cpR .h
    ∧ decodeBytes 0xBE 0x00 0x00 0x00 = .cpIndHl
    ∧ decodeBytes 0xFE 0x7F 0x00 0x00 = .cpN 0x7F := by
  decide

theorem test_decode_base_quadrant_three_part_a :
    decodeBytes 0xD0 0x00 0x00 0x00 = .retCc .nc
    ∧ decodeBytes 0xD1 0x00 0x00 0x00 = .popQq .de
    ∧ decodeBytes 0xC9 0x00 0x00 0x00 = .ret
    ∧ decodeBytes 0xD9 0x00 0x00 0x00 = .exx
    ∧ decodeBytes 0xE9 0x00 0x00 0x00 = .jpIndHl
    ∧ decodeBytes 0xF9 0x00 0x00 0x00 = .ldSpHl
    ∧ decodeBytes 0xCA 0x99 0xFD 0x00 = .jpCcNn .z 0xFD99
    ∧ decodeBytes 0xC3 0xAF 0xE5 0x00 = .jpNn 0xE5AF
    ∧ decodeBytes 0xD3 0x93 0x00 0x00 = .outIndNA 0x93
    ∧ decodeBytes 0xDB 0x25 0x00 0x00 = .inAIndN 0x25
    ∧ decodeBytes 0xE3 0x00 0x00 0x00 = .exIndSpHl
    ∧ decodeBytes 0xEB 0x00 0x00 0x00 = .exDeHl
    ∧ decodeBytes 0xF3 0x00 0x00 0x00 = .di
    ∧ decodeBytes 0xFB 0x00 0x00 0x00 = .ei
    ∧ decodeBytes 0xCC 0xD6 0x54 0x00 = .callCcNn .z 0x54D6
    ∧ decodeBytes 0xE5 0x00 0x00 0x00 = .pushQq .hl := by
  decide

theorem test_decode_base_quadrant_three_part_b :
    decodeBytes 0xCD 0x4D 0xFA 0x00 = .callNn 0xFA4D
    ∧ decodeBytes 0xF7 0x00 0x00 0x00 = .rst 6 := by
  decide

theorem test_decode_cb_part_a :
    decodeBytes 0xCB 0x00 0x00 0x00 = .rlcR .b
    ∧ decodeBytes 0xCB 0x06 0x00 0x00 = .rlcIndHl
    ∧ decodeBytes 0xCB 0x09 0x00 0x00 = .rrcR .c
    ∧ decodeBytes 0xCB 0x0E 0x00 0x00 = .rrcIndHl
    ∧ decodeBytes 0xCB 0x15 0x00 0x00 = .rlR .l
    ∧ decodeBytes 0xCB 0x16 0x00 0x00 = .rlIndHl
    ∧ decodeBytes 0xCB 0x1D 0x00 0x00 = .rrR .l
    ∧ decodeBytes 0xCB 0x1E 0x00 0x00 = .rrIndHl
    ∧ decodeBytes 0xCB 0x25 0x00 0x00 = .slaR .l
    ∧ decodeBytes 0xCB 0x26 0x00 0x00 = .slaIndHl
    ∧ decodeBytes 0xCB 0x2F 0x00 0x00 = .sraR .a
    ∧ decodeBytes 0xCB 0x2E 0x00 0x00 = .sraIndHl
    ∧ decodeBytes 0xCB 0x37 0x00 0x00 = .sllR .a
    ∧ decodeBytes 0xCB 0x36 0x00 0x00 = .sllIndHl
    ∧ decodeBytes 0xCB 0x39 0x00 0x00 = .srlR .c
    ∧ decodeBytes 0xCB 0x3E 0x00 0x00 = .srlIndHl := by
  decide

theorem test_decode_cb_part_b :
    decodeBytes 0xCB 0x4C 0x00 0x00 = .bitBR 1 .h
    ∧ decodeBytes 0xCB 0x7E 0x00 0x00 = .bitBIndHl 7
    ∧ decodeBytes 0xCB 0x88 0x00 0x00 = .resBR 1 .b
    ∧ decodeBytes 0xCB 0xA6 0x00 0x00 = .resBIndHl 4
    ∧ decodeBytes 0xCB 0xFC 0x00 0x00 = .setBR 7 .h
    ∧ decodeBytes 0xCB 0xF6 0x00 0x00 = .setBIndHl 6 := by
  decide

theorem test_decode_ed_rows_4_to_7_part_a :
    decodeBytes 0xED 0x68 0x00 0x00 = .inRIndC .l
    ∧ decodeBytes 0xED 0x70 0x00 0x00 = .inIndC
    ∧ decodeBytes 0xED 0x41 0x00 0x00 = .outIndCR .b
    ∧ decodeBytes 0xED 0x71 0x00 0x00 = .outIndCZero
    ∧ decodeBytes 0xED 0x72 0x00 0x00 = .sbcHlSs .sp
    ∧ decodeBytes 0xED 0x6A 0x00 0x00 = .adcHlSs .hl
    ∧ decodeBytes 0xED 0x53 0x3B 0xFC = .ldIndNnDd .de 0xFC3B
    ∧ decodeBytes 0xED 0x4B 0x6F 0x93 = .ldDdIndNn .bc 0x936F
    ∧ decodeBytes 0xED 0x54 0x00 0x00 = .neg 2
    ∧ decodeBytes 0xED 0x5D 0x00 0x00 = .retn 3
    ∧ decodeBytes 0xED 0x4D 0x00 0x00 = .reti
    ∧ decodeBytes 0xED 0x6E 0x00 0x00 = .imZero 3
    ∧ decodeBytes 0xED 0x76 0x00 0x00 = .imOne 1
    ∧ decodeBytes 0xED 0x7E 0x00 0x00 = .imTwo 1
    ∧ decodeBytes 0xED 0x47 0x00 0x00 = .ldVectorA
    ∧ decodeBytes 0xED 0x4F 0x00 0x00 = .ldRefreshA := by
  decide

theorem test_decode_ed_rows_4_to_7_part_b :
    decodeBytes 0xED 0x57 0x00 0x00 = .ldAVector
    ∧ decodeBytes 0xED 0x5F 0x00 0x00 = .ldARefresh
    ∧ decodeBytes 0xED 0x67 0x00 0x00 = .rrd
    ∧ decodeBytes 0xED 0x6F 0x00 0x00 = .rld := by
  decide

theorem test_decode_ed_blocks_part_a :
    decodeBytes 0xED 0xA0 0x00 0x00 = .ldi
    ∧ decodeBytes 0xED 0xA1 0x00 0x00 = .cpi
    ∧ decodeBytes 0xED 0xA2 0x00 0x00 = .ini
    ∧ decodeBytes 0xED 0xA3 0x00 0x00 = .outi
    ∧ decodeBytes 0xED 0xA8 0x00 0x00 = .ldd
    ∧ decodeBytes 0xED 0xA9 0x00 0x00 = .cpd
    ∧ decodeBytes 0xED 0xAA 0x00 0x00 = .ind
    ∧ decodeBytes 0xED 0xAB 0x00 0x00 = .outd
    ∧ decodeBytes 0xED 0xB0 0x00 0x00 = .ldir
    ∧ decodeBytes 0xED 0xB1 0x00 0x00 = .cpir
    ∧ decodeBytes 0xED 0xB2 0x00 0x00 = .inir
    ∧ decodeBytes 0xED 0xB3 0x00 0x00 = .otir
    ∧ decodeBytes 0xED 0xB8 0x00 0x00 = .lddr
    ∧ decodeBytes 0xED 0xB9 0x00 0x00 = .cpdr
    ∧ decodeBytes 0xED 0xBA 0x00 0x00 = .indr
    ∧ decodeBytes 0xED 0xBB 0x00 0x00 = .otdr := by
  decide

theorem test_decode_ed_blocks_part_b :
    decodeBytes 0xED 0x7F 0x00 0x00 = .nopEd 0x7F := by
  decide

theorem test_decode_index_loads_and_increments_part_a :
    decodeBytes 0xFD 0x39 0x00 0x00 = .addIdxPp .iy .sp
    ∧ decodeBytes 0xFD 0x21 0x46 0xDC = .ldIdxNn .iy 0xDC46
    ∧ decodeBytes 0xFD 0x22 0xD4 0xB7 = .ldIndNnIdx .iy 0xB7D4
    ∧ decodeBytes 0xFD 0x2A 0x76 0x4D = .ldIdxIndNn .iy 0x4D76
    ∧ decodeBytes 0xDD 0x23 0x00 0x00 = .incIdx .ix
    ∧ decodeBytes 0xDD 0x2B 0x00 0x00 = .decIdx .ix
    ∧ decodeBytes 0xDD 0x24 0x00 0x00 = .incIdxHalf .ix .high
    ∧ decodeBytes 0xDD 0x25 0x00 0x00 = .decIdxHalf .ix .high
    ∧ decodeBytes 0xFD 0x26 0x86 0x00 = .ldIdxHalfN .iy .high 0x86
    ∧ decodeBytes 0xFD 0x34 0x02 0x00 = .incIndIdx .iy 0x02
    ∧ decodeBytes 0xDD 0x35 0xD6 0x00 = .decIndIdx .ix 0xD6
    ∧ decodeBytes 0xFD 0x36 0xA3 0x40 = .ldIndIdxN .iy 0xA3 0x40
    ∧ decodeBytes 0xDD 0x7E 0xC8 0x00 = .ldRIndIdx .ix .a 0xC8
    ∧ decodeBytes 0xDD 0x77 0xCD 0x00 = .ldIndIdxR .ix 0xCD .a
    ∧ decodeBytes 0xDD 0x5C 0x00 0x00 = .ldRIdxHalf .ix .e .high
    ∧ decodeBytes 0xDD 0x6A 0x00 0x00 = .ldIdxHalfR .ix .low .d := by
  decide

theorem test_decode_index_loads_and_increments_part_b :
    decodeBytes 0xDD 0x6C 0x00 0x00 = .ldIdxHalfIdxHalf .ix .low .high := by
  decide

theorem test_decode_index_alu_and_stack_part_a :
    decodeBytes 0xDD 0x84 0x00 0x00 = .addAIdxHalf .ix .high
    ∧ decodeBytes 0xDD 0x86 0x33 0x00 = .addAIndIdx .ix 0x33
    ∧ decodeBytes 0xFD 0x8C 0x00 0x00 = .adcAIdxHalf .iy .high
    ∧ decodeBytes 0xDD 0x8E 0x6A 0x00 = .adcAIndIdx .ix 0x6A
    ∧ decodeBytes 0xFD 0x94 0x00 0x00 = .subIdxHalf .iy .high
    ∧ decodeBytes 0xFD 0x96 0xB1 0x00 = .subIndIdx .iy 0xB1
    ∧ decodeBytes 0xFD 0x9D 0x00 0x00 = .sbcAIdxHalf .iy .low
    ∧ decodeBytes 0xDD 0x9E 0x3B 0x00 = .sbcAIndIdx .ix 0x3B
    ∧ decodeBytes 0xFD 0xA5 0x00 0x00 = .andIdxHalf .iy .low
    ∧ decodeBytes 0xFD 0xA6 0xF7 0x00 = .andIndIdx .iy 0xF7
    ∧ decodeBytes 0xFD 0xAC 0x00 0x00 = .xorIdxHalf .iy .high
    ∧ decodeBytes 0xDD 0xAE 0x34 0x00 = .xorIndIdx .ix 0x34
    ∧ decodeBytes 0xFD 0xB5 0x00 0x00 = .orIdxHalf .iy .low
    ∧ decodeBytes 0xFD 0xB6 0x52 0x00 = .orIndIdx .iy 0x52
    ∧ decodeBytes 0xDD 0xBC 0x00 0x00 = .cpIdxHalf .ix .high
    ∧ decodeBytes 0xFD 0xBE 0x4B 0x00 = .cpIndIdx .iy 0x4B := by
  decide

theorem test_decode_index_alu_and_stack_part_b :
    decodeBytes 0xDD 0xE1 0x00 0x00 = .popIdx .ix
    ∧ decodeBytes 0xFD 0xE3 0x00 0x00 = .exIndSpIdx .iy
    ∧ decodeBytes 0xDD 0xE5 0x00 0x00 = .pushIdx .ix
    ∧ decodeBytes 0xFD 0xE9 0x00 0x00 = .jpIndIdx .iy
    ∧ decodeBytes 0xFD 0xF9 0x00 0x00 = .ldSpIdx .iy
    ∧ decodeBytes 0xDD 0xED 0x00 0x00 = .ignoredIndexPrefix .ix 0xED := by
  decide

theorem test_decode_index_cb_part_a :
    decodeBytes 0xDD 0xCB 0xA8 0x06 = .rlcIndIdx .ix 0xA8
    ∧ decodeBytes 0xDD 0xCB 0x63 0x03 = .rlcIndIdxR .ix 0x63 .e
    ∧ decodeBytes 0xFD 0xCB 0x74 0x0E = .rrcIndIdx .iy 0x74
    ∧ decodeBytes 0xDD 0xCB 0xFC 0x0D = .rrcIndIdxR .ix 0xFC .l
    ∧ decodeBytes 0xDD 0xCB 0x0E 0x16 = .rlIndIdx .ix 0x0E
    ∧ decodeBytes 0xFD 0xCB 0xF1 0x14 = .rlIndIdxR .iy 0xF1 .h
    ∧ decodeBytes 0xDD 0xCB 0xB0 0x1E = .rrIndIdx .ix 0xB0
    ∧ decodeBytes 0xFD 0xCB 0xB2 0x1D = .rrIndIdxR .iy 0xB2 .l
    ∧ decodeBytes 0xDD 0xCB 0x70 0x26 = .slaIndIdx .ix 0x70
    ∧ decodeBytes 0xDD 0xCB 0x74 0x27 = .slaIndIdxR .ix 0x74 .a
    ∧ decodeBytes 0xDD 0xCB 0xAC 0x2E = .sraIndIdx .ix 0xAC
    ∧ decodeBytes 0xDD 0xCB 0xF7 0x28 = .sraIndIdxR .ix 0xF7 .b
    ∧ decodeBytes 0xFD 0xCB 0xB0 0x36 = .sllIndIdx .iy 0xB0
    ∧ decodeBytes 0xDD 0xCB 0xF4 0x32 = .sllIndIdxR .ix 0xF4 .d
    ∧ decodeBytes 0xFD 0xCB 0xAA 0x3E = .srlIndIdx .iy 0xAA
    ∧ decodeBytes 0xDD 0xCB 0xCA 0x3F = .srlIndIdxR .ix 0xCA .a := by
  decide

theorem test_decode_index_cb_part_b :
    decodeBytes 0xFD 0xCB 0x2B 0x52 = .bitBIndIdx .iy 0x2B 2 2
    ∧ decodeBytes 0xDD 0xCB 0x0E 0x96 = .resBIndIdx .ix 0x0E 2
    ∧ decodeBytes 0xFD 0xCB 0x4A 0xBD = .resBIndIdxR .iy 0x4A 7 .l
    ∧ decodeBytes 0xDD 0xCB 0x43 0xC6 = .setBIndIdx .ix 0x43 0
    ∧ decodeBytes 0xDD 0xCB 0x6C 0xC4 = .setBIndIdxR .ix 0x6C 0 .h := by
  decide

/-- A list that ends inside an instruction is refused by name; the same bytes with the rest decode. -/
theorem test_decode_truncated :
    decode [0x21, 0x34] = .error .truncated ∧ decode [] = .error .truncated
    ∧ decode [0x21, 0x34, 0x12, 0x76] = .ok (.ldDdNn .hl 0x1234, [0x76]) := by
  decide

/-- Words as spec/opcode_table.json numbers their bits (rows `NOP`, `LD_dd_nn`, `BIT_b_r`, the
DD/FD+CB row of `SET b,(IDX+d)` and `ignored_index_prefix`, log 9). -/
theorem test_decodeTableWord :
    decodeTableWord 8 0x00 = some .nop ∧ decodeTableWord 24 0x010000 = some (.ldDdNn .bc 0)
    ∧ decodeTableWord 16 0xCB7F = some (.bitBR 7 .a)
    ∧ decodeTableWord 32 0xDDCB01C6 = some (.setBIndIdx .ix 0x01 0)
    ∧ decodeTableWord 8 0xDD = some (.ignoredIndexPrefix .ix 0x00) := by
  decide

/-! ## One step of each instruction -/

/-- One step from `s` with bytes stored at PC answers a next state that passes. -/
def stepTest (s : State) (bs : List Byte) (check : State → Bool) : Bool :=
  match step { s with mem := s.mem.writeBytes s.pc bs } with
  | .next t => check t
  | _ => false

/-- R350 example. -/
theorem test_nop : stepTest State.reset [0x00]
    (fun t => t.pc == 0x0001 && t.r == 0x01 && t.tStates == 4) = true := by decide

/-- 95_test_vectors.md 3, R260. -/
theorem test_ldDdNn : stepTest State.reset [0x01, 0x34, 0x12]
    (fun t => t.reg .b == 0x12 && t.reg .c == 0x34 && t.tStates == 10) = true := by decide

/-- 95_test_vectors.md 3, R380. -/
theorem test_addHlSs : stepTest { State.reset with af := 0x00C4, de := 0x0001, hl := 0x0FFF } [0x19]
    (fun t => t.f == 0xD4 && t.reg .h == 0x10 && t.reg .l == 0x00 && t.memptr == 0x1000 &&
      t.tStates == 11) = true := by decide

/-- 95_test_vectors.md 3, R380. -/
theorem test_addHlSs_again : stepTest { State.reset with hl := 0x8000 } [0x29]
    (fun t => t.f == 0x01 && t.reg .h == 0x00 && t.memptr == 0x8001 && t.tStates == 11) = true
      := by decide

/-- R228 example. -/
theorem test_ldIndBcA : stepTest { State.reset with af := 0x5600, bc := 0x40FF } [0x02]
    (fun t => t.memptr == 0x5600 && t.byteAt 0x40FF == 0x56 && t.tStates == 7) = true := by decide

/-- 95_test_vectors.md 3, R225. -/
theorem test_ldAIndBc : stepTest { State.reset with bc := 0x8000, mem := [(0x8000, 0x42)] } [0x0A]
    (fun t => t.reg .a == 0x42 && t.memptr == 0x8001 && t.tStates == 7) = true := by decide

/-- R229 example. -/
theorem test_ldIndDeA : stepTest { State.reset with af := 0x0100, de := 0x2000 } [0x12]
    (fun t => t.memptr == 0x0101 && t.byteAt 0x2000 == 0x01 && t.tStates == 7) = true := by decide

/-- R226 example. -/
theorem test_ldAIndDe : stepTest { State.reset with de := 0x40FF, mem := [(0x40FF, 0x07)] } [0x1A]
    (fun t => t.reg .a == 0x07 && t.memptr == 0x4100 && t.tStates == 7) = true := by decide

/-- 95_test_vectors.md 3, R265. -/
theorem test_ldIndNnHl : stepTest { State.reset with hl := 0x1234 } [0x22, 0xFF, 0xFF]
    (fun t => t.byteAt 0xFFFF == 0x34 && t.byteAt 0x0000 == 0x12 && t.tStates == 16) = true :=
      by decide

/-- 95_test_vectors.md 3, R262. -/
theorem test_ldHlIndNn :
    stepTest { State.reset with mem := [(0x9000, 0xCD), (0x9001, 0xAB)] }
      [0x2A, 0x00, 0x90]
    (fun t => t.reg .h == 0xAB && t.reg .l == 0xCD && t.memptr == 0x9001 && t.tStates == 16) =
      true := by decide

/-- 95_test_vectors.md 3, R230. -/
theorem test_ldIndNnA : stepTest { State.reset with af := 0x1200 } [0x32, 0x00, 0x90]
    (fun t => t.memptr == 0x1201 && t.byteAt 0x9000 == 0x12 && t.tStates == 13) = true := by decide

/-- 95_test_vectors.md 3, R227. -/
theorem test_ldAIndNn : stepTest { State.reset with mem := [(0xFFFF, 0x99)] } [0x3A, 0xFF, 0xFF]
    (fun t => t.reg .a == 0x99 && t.tStates == 13) = true := by decide

/-- 95_test_vectors.md 3, R384. -/
theorem test_incSs : stepTest { State.reset with sp := 0xFFFF } [0x33]
    (fun t => t.sp == 0x0000 && t.tStates == 6) = true := by decide

/-- 95_test_vectors.md 3, R386. -/
theorem test_decSs : stepTest State.reset [0x0B]
    (fun t => t.reg .b == 0xFF && t.reg .c == 0xFF && t.tStates == 6) = true := by decide

/-- 95_test_vectors.md 3, R339. -/
theorem test_incR : stepTest { State.reset with af := 0x7F01 } [0x3C]
    (fun t => t.reg .a == 0x80 && t.f == 0x95 && t.tStates == 4) = true := by decide

/-- 95_test_vectors.md 3, R340. -/
theorem test_incIndHl : stepTest { State.reset with hl := 0x8000, mem := [(0x8000, 0xFF)] } [0x34]
    (fun t => t.f == 0x50 && t.byteAt 0x8000 == 0x00 && t.tStates == 11) = true := by decide

/-- R342 example. -/
theorem test_decR : stepTest { State.reset with bc := 0x8000 } [0x05]
    (fun t => t.reg .b == 0x7F && t.f == 0x3E && t.tStates == 4) = true := by decide

/-- R343 example. -/
theorem test_decIndHl : stepTest { State.reset with hl := 0x8000, mem := [(0x8000, 0x01)] } [0x35]
    (fun t => t.f == 0x42 && t.byteAt 0x8000 == 0x00 && t.tStates == 11) = true := by decide

/-- 95_test_vectors.md 3, R221. -/
theorem test_ldRN : stepTest State.reset [0x3E, 0x80]
    (fun t => t.reg .a == 0x80 && t.tStates == 7) = true := by decide

/-- 95_test_vectors.md 3, R224. -/
theorem test_ldIndHlN : stepTest { State.reset with hl := 0x8000 } [0x36, 0x77]
    (fun t => t.byteAt 0x8000 == 0x77 && t.tStates == 10) = true := by decide

/-- 95_test_vectors.md 3, R400. -/
theorem test_rlca : stepTest { State.reset with af := 0x8100 } [0x07]
    (fun t => t.reg .a == 0x03 && t.f == 0x01 && t.tStates == 4) = true := by decide

/-- 95_test_vectors.md 3, R402. -/
theorem test_rrca : stepTest { State.reset with af := 0x0100 } [0x0F]
    (fun t => t.reg .a == 0x80 && t.f == 0x01 && t.tStates == 4) = true := by decide

/-- 95_test_vectors.md 3, R401. -/
theorem test_rla : stepTest { State.reset with af := 0x80C4 } [0x17]
    (fun t => t.reg .a == 0x00 && t.f == 0xC5 && t.tStates == 4) = true := by decide

/-- 95_test_vectors.md 3, R403. -/
theorem test_rra : stepTest { State.reset with af := 0x0101 } [0x1F]
    (fun t => t.reg .a == 0x80 && t.tStates == 4) = true := by decide

/-- 95_test_vectors.md 2.4. -/
theorem test_daa : stepTest { State.reset with af := 0x9A00 } [0x27]
    (fun t => t.reg .a == 0x00 && t.f == 0x55 && t.tStates == 4) = true := by decide

/-- 95_test_vectors.md 2.4. -/
theorem test_daa_again : stepTest { State.reset with af := 0x0013 } [0x27]
    (fun t => t.reg .a == 0x9A && t.f == 0x9F && t.tStates == 4) = true := by decide

/-- 95_test_vectors.md 3, R346. -/
theorem test_cpl : stepTest { State.reset with af := 0x5A00 } [0x2F]
    (fun t => t.reg .a == 0xA5 && t.f == 0x32 && t.tStates == 4) = true := by decide

/-- 95_test_vectors.md 3, R349. -/
theorem test_scf : stepTest { State.reset with af := 0x00FE } [0x37]
    (fun t => t.f == 0xC5 && t.tStates == 4) = true := by decide

/-- 95_test_vectors.md 3, R348. -/
theorem test_ccf : stepTest { State.reset with af := 0x2801 } [0x3F]
    (fun t => t.f == 0x38 && t.tStates == 4) = true := by decide

/-- R301 example. -/
theorem test_exAfAf : stepTest { State.reset with af := 0x1234, afAlt := 0x5678 } [0x08]
    (fun t => t.af == 0x5678 && t.afAlt == 0x1234 && t.tStates == 4) = true := by decide

/-- 95_test_vectors.md 3, R465. -/
theorem test_djnz : stepTest { State.reset with bc := 0x0200 } [0x10, 0xFE]
    (fun t => t.reg .b == 0x01 && t.tStates == 13) = true := by decide

/-- 95_test_vectors.md 3, R465. -/
theorem test_djnz_again : stepTest { State.reset with bc := 0x0100 } [0x10, 0xFE]
    (fun t => t.reg .b == 0x00 && t.pc == 0x0002 && t.tStates == 8) = true := by decide

/-- 95_test_vectors.md 3, R462. -/
theorem test_jr : stepTest State.reset [0x18, 0xFE]
    (fun t => t.tStates == 12) = true := by decide

/-- 95_test_vectors.md 3, R463. -/
theorem test_jrCc : stepTest State.reset [0x38, 0x05]
    (fun t => t.pc == 0x0002 && t.tStates == 7) = true := by decide

/-- 95_test_vectors.md 3, R351. -/
theorem test_halt : stepTest State.reset [0x76]
    (fun t => t.r == 0x01 && t.halted && t.tStates == 4) = true := by decide

/-- 95_test_vectors.md 3, R220. -/
theorem test_ldRR : stepTest { State.reset with bc := 0x005A } [0x41]
    (fun t => t.reg .b == 0x5A && t.tStates == 4) = true := by decide

/-- R222 example. -/
theorem test_ldRIndHl : stepTest { State.reset with hl := 0x8000, mem := [(0x8000, 0x77)] } [0x5E]
    (fun t => t.reg .e == 0x77 && t.tStates == 7) = true := by decide

/-- R223 example. -/
theorem test_ldIndHlR : stepTest { State.reset with af := 0x3C00, hl := 0x8000 } [0x77]
    (fun t => t.byteAt 0x8000 == 0x3C && t.tStates == 7) = true := by decide

/-- 95_test_vectors.md 3, R331. -/
theorem test_addAR : stepTest { State.reset with af := 0x7F00, bc := 0x0100 } [0x80]
    (fun t => t.reg .a == 0x80 && t.f == 0x94 && t.tStates == 4) = true := by decide

/-- 95_test_vectors.md 2.1. -/
theorem test_addAIndHl :
    stepTest { State.reset with af := 0x0F00, hl := 0x8000, mem := [(0x8000, 0x01)] }
      [0x86]
    (fun t => t.reg .a == 0x10 && t.f == 0x10 && t.tStates == 7) = true := by decide

/-- 95_test_vectors.md 1.1. -/
theorem test_addAN : stepTest { State.reset with af := 0x0500 } [0xC6, 0x03]
    (fun t => t.reg .a == 0x08 && t.f == 0x08 && t.tStates == 7) = true := by decide

/-- 95_test_vectors.md 2.1. -/
theorem test_adcAR : stepTest { State.reset with af := 0xFF01, de := 0xFF00 } [0x8A]
    (fun t => t.reg .a == 0xFF && t.f == 0xB9 && t.tStates == 4) = true := by decide

/-- 95_test_vectors.md 2.1. -/
theorem test_adcAIndHl :
    stepTest { State.reset with af := 0x3A01, hl := 0x8000, mem := [(0x8000, 0xC6)] }
      [0x8E]
    (fun t => t.reg .a == 0x01 && t.f == 0x11 && t.tStates == 7) = true := by decide

/-- 95_test_vectors.md 3, R332. -/
theorem test_adcAN : stepTest { State.reset with af := 0x0001 } [0xCE, 0xFF]
    (fun t => t.f == 0x51 && t.tStates == 7) = true := by decide

/-- R333 example. -/
theorem test_subR : stepTest { State.reset with af := 0x1000, bc := 0x0020 } [0x91]
    (fun t => t.reg .a == 0xF0 && t.f == 0xA3 && t.tStates == 4) = true := by decide

/-- 95_test_vectors.md 3, R333. -/
theorem test_subIndHl :
    stepTest { State.reset with af := 0x1000, hl := 0x8000, mem := [(0x8000, 0x11)] }
      [0x96]
    (fun t => t.reg .a == 0xFF && t.f == 0xBB && t.tStates == 7) = true := by decide

/-- 95_test_vectors.md 2.1. -/
theorem test_subN : stepTest { State.reset with af := 0x8000 } [0xD6, 0x01]
    (fun t => t.reg .a == 0x7F && t.f == 0x3E && t.tStates == 7) = true := by decide

/-- 95_test_vectors.md 3, R334. -/
theorem test_sbcAR : stepTest { State.reset with af := 0x5501 } [0x9F]
    (fun t => t.reg .a == 0xFF && t.f == 0xBB && t.tStates == 4) = true := by decide

/-- 95_test_vectors.md 2.1. -/
theorem test_sbcAIndHl :
    stepTest { State.reset with af := 0x2001, hl := 0x8000, mem := [(0x8000, 0x0F)] }
      [0x9E]
    (fun t => t.reg .a == 0x10 && t.f == 0x12 && t.tStates == 7) = true := by decide

/-- 95_test_vectors.md 2.1. -/
theorem test_sbcAN : stepTest { State.reset with af := 0x2001 } [0xDE, 0x0F]
    (fun t => t.reg .a == 0x10 && t.f == 0x12 && t.tStates == 7) = true := by decide

/-- 95_test_vectors.md 2.2. -/
theorem test_andR : stepTest { State.reset with af := 0x2C00, de := 0x0038 } [0xA3]
    (fun t => t.reg .a == 0x28 && t.f == 0x3C && t.tStates == 4) = true := by decide

/-- 95_test_vectors.md 2.2. -/
theorem test_andIndHl :
    stepTest { State.reset with af := 0xF000, hl := 0x8000, mem := [(0x8000, 0x0F)] }
      [0xA6]
    (fun t => t.reg .a == 0x00 && t.f == 0x54 && t.tStates == 7) = true := by decide

/-- 95_test_vectors.md 3, R335. -/
theorem test_andN : stepTest { State.reset with af := 0xF000 } [0xE6, 0x0F]
    (fun t => t.reg .a == 0x00 && t.f == 0x54 && t.tStates == 7) = true := by decide

/-- 95_test_vectors.md 3, R336. -/
theorem test_xorR : stepTest { State.reset with af := 0x5AFF } [0xAF]
    (fun t => t.reg .a == 0x00 && t.f == 0x44 && t.tStates == 4) = true := by decide

/-- 95_test_vectors.md 2.2. -/
theorem test_xorIndHl :
    stepTest { State.reset with af := 0xF000, hl := 0x8000, mem := [(0x8000, 0x0F)] }
      [0xAE]
    (fun t => t.reg .a == 0xFF && t.f == 0xAC && t.tStates == 7) = true := by decide

/-- 95_test_vectors.md 2.2. -/
theorem test_xorN : stepTest { State.reset with af := 0x8000 } [0xEE, 0x01]
    (fun t => t.reg .a == 0x81 && t.f == 0x84 && t.tStates == 7) = true := by decide

/-- 95_test_vectors.md 2.2. -/
theorem test_orR : stepTest { State.reset with af := 0x8000, bc := 0x0100 } [0xB0]
    (fun t => t.reg .a == 0x81 && t.f == 0x84 && t.tStates == 4) = true := by decide

/-- R337 example. -/
theorem test_orIndHl :
    stepTest { State.reset with af := 0x8000, hl := 0x8000, mem := [(0x8000, 0x01)] }
      [0xB6]
    (fun t => t.reg .a == 0x81 && t.f == 0x84 && t.tStates == 7) = true := by decide

/-- 95_test_vectors.md 2.2. -/
theorem test_orN : stepTest { State.reset with af := 0xF000 } [0xF6, 0x0F]
    (fun t => t.reg .a == 0xFF && t.f == 0xAC && t.tStates == 7) = true := by decide

/-- 95_test_vectors.md 2.2. -/
theorem test_cpR : stepTest { State.reset with af := 0x2800, hl := 0x2800 } [0xBC]
    (fun t => t.reg .a == 0x28 && t.f == 0x6A && t.tStates == 4) = true := by decide

/-- 95_test_vectors.md 2.2. -/
theorem test_cpIndHl :
    stepTest { State.reset with af := 0x8000, hl := 0x8000, mem := [(0x8000, 0x01)] }
      [0xBE]
    (fun t => t.reg .a == 0x80 && t.f == 0x16 && t.tStates == 7) = true := by decide

/-- 95_test_vectors.md 3, R338. -/
theorem test_cpN : stepTest { State.reset with af := 0x1000 } [0xFE, 0x28]
    (fun t => t.f == 0xBB && t.tStates == 7) = true := by decide

/-- 95_test_vectors.md 3, R469. -/
theorem test_retCc : stepTest { State.reset with af := 0x0080, sp := 0x8FFE } [0xF0]
    (fun t => t.pc == 0x0001 && t.tStates == 5) = true := by decide

/-- 95_test_vectors.md 3, R272. -/
theorem test_popQq : stepTest { State.reset with sp := 0x9000, mem := [(0x9000, 0xFF)] } [0xF1]
    (fun t => t.f == 0xFF && t.sp == 0x9002 && t.tStates == 10) = true := by decide

/-- 95_test_vectors.md 3, R468. -/
theorem test_ret : stepTest { State.reset with sp := 0x8FFE, mem := [(0x8FFE, 0x03)] } [0xC9]
    (fun t => t.sp == 0x9000 && t.pc == 0x0003 && t.memptr == 0x0003 && t.tStates == 10) = true
      := by decide

/-- R302 example. -/
theorem test_exx :
    stepTest { State.reset with bc := 0x0001, de := 0x0003, hl := 0x0005, bcAlt := 0x0002, deAlt := 0x0004, hlAlt := 0x0006 }
      [0xD9]
    (fun t => t.bc == 0x0002 && t.bcAlt == 0x0001 && t.de == 0x0004 && t.deAlt == 0x0003 && t.hl
      == 0x0006 && t.hlAlt == 0x0005 && t.tStates == 4) = true := by decide

/-- 95_test_vectors.md 3, R464. -/
theorem test_jpIndHl : stepTest { State.reset with hl := 0x4000 } [0xE9]
    (fun t => t.pc == 0x4000 && t.tStates == 4) = true := by decide

/-- 95_test_vectors.md 3, R268. -/
theorem test_ldSpHl : stepTest { State.reset with hl := 0x9000 } [0xF9]
    (fun t => t.sp == 0x9000 && t.tStates == 6) = true := by decide

/-- 95_test_vectors.md 3, R461. -/
theorem test_jpCcNn : stepTest { State.reset with af := 0x0040 } [0xC2, 0x34, 0x12]
    (fun t => t.pc == 0x0003 && t.memptr == 0x1234 && t.tStates == 10) = true := by decide

/-- 95_test_vectors.md 3, R460. -/
theorem test_jpNn : stepTest State.reset [0xC3, 0x34, 0x12]
    (fun t => t.pc == 0x1234 && t.memptr == 0x1234 && t.tStates == 10) = true := by decide

/-- 95_test_vectors.md 3, R503. -/
theorem test_outIndNA : stepTest { State.reset with af := 0x1200 } [0xD3, 0xFF]
    (fun t => t.memptr == 0x1200 && t.bus.contains (.writePort 0x12FF 0x12) && t.tStates == 11)
      = true := by decide

/-- 95_test_vectors.md 3, R500. -/
theorem test_inAIndN : stepTest { State.reset with af := 0x7F00, portIn := [0xFF] } [0xDB, 0xFE]
    (fun t => t.reg .a == 0xFF && t.memptr == 0x7FFF && t.bus.contains (.readPort 0x7FFE) &&
      t.tStates == 11) = true := by decide

/-- 95_test_vectors.md 3, R303. -/
theorem test_exIndSpHl :
    stepTest { State.reset with hl := 0x1234, sp := 0x9000, mem := [(0x9000, 0xCD), (0x9001, 0xAB)] }
      [0xE3]
    (fun t => t.reg .h == 0xAB && t.reg .l == 0xCD && t.memptr == 0xABCD && t.byteAt 0x9000 ==
      0x34 && t.byteAt 0x9001 == 0x12 && t.tStates == 19) = true := by decide

/-- 95_test_vectors.md 3, R300. -/
theorem test_exDeHl : stepTest { State.reset with de := 0x1111, hl := 0x2222 } [0xEB]
    (fun t => t.reg .d == 0x22 && t.reg .e == 0x22 && t.reg .h == 0x11 && t.reg .l == 0x11 &&
      t.tStates == 4) = true := by decide

/-- 95_test_vectors.md 3, R352. -/
theorem test_di : stepTest { State.reset with iff1 := true, iff2 := true } [0xF3]
    (fun t => !t.iff1 && !t.iff2 && t.tStates == 4) = true := by decide

/-- 95_test_vectors.md 3, R353. -/
theorem test_ei : stepTest State.reset [0xFB]
    (fun t => t.iff1 && t.iff2 && t.intBlocked && t.tStates == 4) = true := by decide

/-- 95_test_vectors.md 3, R467. -/
theorem test_callCcNn : stepTest { State.reset with sp := 0x9000 } [0xCC, 0x00, 0x40]
    (fun t => t.pc == 0x0003 && t.memptr == 0x4000 && t.tStates == 10) = true := by decide

/-- 95_test_vectors.md 3, R270. -/
theorem test_pushQq : stepTest { State.reset with bc := 0x1234, sp := 0x9000 } [0xC5]
    (fun t => t.sp == 0x8FFE && t.byteAt 0x8FFE == 0x34 && t.byteAt 0x8FFF == 0x12 && t.tStates
      == 11) = true := by decide

/-- 95_test_vectors.md 3, R466. -/
theorem test_callNn : stepTest { State.reset with sp := 0x9000 } [0xCD, 0x00, 0x40]
    (fun t => t.sp == 0x8FFE && t.pc == 0x4000 && t.memptr == 0x4000 && t.byteAt 0x8FFE == 0x03
      && t.byteAt 0x8FFF == 0x00 && t.tStates == 17) = true := by decide

/-- 95_test_vectors.md 3, R472. -/
theorem test_rst : stepTest { State.reset with sp := 0x9000 } [0xEF]
    (fun t => t.sp == 0x8FFE && t.pc == 0x0028 && t.memptr == 0x0028 && t.byteAt 0x8FFE == 0x01
      && t.byteAt 0x8FFF == 0x00 && t.tStates == 11) = true := by decide

/-- 95_test_vectors.md 3, R406. -/
theorem test_rlcR : stepTest { State.reset with bc := 0x8000 } [0xCB, 0x00]
    (fun t => t.f == 0x01 && t.reg .b == 0x01 && t.tStates == 8) = true := by decide

/-- 95_test_vectors.md 2.3. -/
theorem test_rlcIndHl :
    stepTest { State.reset with hl := 0x8000, mem := [(0x8000, 0x80)] }
      [0xCB, 0x06]
    (fun t => t.f == 0x01 && t.byteAt 0x8000 == 0x01 && t.tStates == 15) = true := by decide

/-- 95_test_vectors.md 2.3. -/
theorem test_rrcR : stepTest { State.reset with af := 0x0001, bc := 0x0001 } [0xCB, 0x09]
    (fun t => t.reg .c == 0x80 && t.f == 0x81 && t.tStates == 8) = true := by decide

/-- 95_test_vectors.md 3, R407. -/
theorem test_rrcIndHl :
    stepTest { State.reset with hl := 0x8000, mem := [(0x8000, 0x01)] }
      [0xCB, 0x0E]
    (fun t => t.f == 0x81 && t.byteAt 0x8000 == 0x80 && t.tStates == 15) = true := by decide

/-- 95_test_vectors.md 3, R408. -/
theorem test_rlR : stepTest { State.reset with bc := 0x0080 } [0xCB, 0x11]
    (fun t => t.f == 0x45 && t.reg .c == 0x00 && t.tStates == 8) = true := by decide

/-- 95_test_vectors.md 2.3. -/
theorem test_rlIndHl :
    stepTest { State.reset with af := 0x0001, hl := 0x8000, mem := [(0x8000, 0x01)] }
      [0xCB, 0x16]
    (fun t => t.f == 0x04 && t.byteAt 0x8000 == 0x03 && t.tStates == 15) = true := by decide

/-- 95_test_vectors.md 3, R409. -/
theorem test_rrR : stepTest { State.reset with af := 0x0001, de := 0x0100 } [0xCB, 0x1A]
    (fun t => t.f == 0x81 && t.reg .d == 0x80 && t.tStates == 8) = true := by decide

/-- 95_test_vectors.md 2.3. -/
theorem test_rrIndHl :
    stepTest { State.reset with af := 0x0001, hl := 0x8000, mem := [(0x8000, 0x01)] }
      [0xCB, 0x1E]
    (fun t => t.f == 0x81 && t.byteAt 0x8000 == 0x80 && t.tStates == 15) = true := by decide

/-- 95_test_vectors.md 3, R410. -/
theorem test_slaR : stepTest { State.reset with de := 0x0080 } [0xCB, 0x23]
    (fun t => t.f == 0x45 && t.reg .e == 0x00 && t.tStates == 8) = true := by decide

/-- 95_test_vectors.md 2.3. -/
theorem test_slaIndHl :
    stepTest { State.reset with hl := 0x8000, mem := [(0x8000, 0x80)] }
      [0xCB, 0x26]
    (fun t => t.f == 0x45 && t.byteAt 0x8000 == 0x00 && t.tStates == 15) = true := by decide

/-- 95_test_vectors.md 3, R411. -/
theorem test_sraR : stepTest { State.reset with hl := 0x8100 } [0xCB, 0x2C]
    (fun t => t.f == 0x85 && t.reg .h == 0xC0 && t.tStates == 8) = true := by decide

/-- 95_test_vectors.md 2.3. -/
theorem test_sraIndHl :
    stepTest { State.reset with hl := 0x8000, mem := [(0x8000, 0x80)] }
      [0xCB, 0x2E]
    (fun t => t.f == 0x84 && t.byteAt 0x8000 == 0xC0 && t.tStates == 15) = true := by decide

/-- 95_test_vectors.md 3, R412. -/
theorem test_sllR : stepTest { State.reset with hl := 0x0080 } [0xCB, 0x35]
    (fun t => t.f == 0x01 && t.reg .l == 0x01 && t.tStates == 8) = true := by decide

/-- 95_test_vectors.md 2.3. -/
theorem test_sllIndHl :
    stepTest { State.reset with hl := 0x8000, mem := [(0x8000, 0x01)] }
      [0xCB, 0x36]
    (fun t => t.f == 0x04 && t.byteAt 0x8000 == 0x03 && t.tStates == 15) = true := by decide

/-- 95_test_vectors.md 3, R413. -/
theorem test_srlR : stepTest { State.reset with af := 0x0100 } [0xCB, 0x3F]
    (fun t => t.reg .a == 0x00 && t.f == 0x45 && t.tStates == 8) = true := by decide

/-- 95_test_vectors.md 2.3. -/
theorem test_srlIndHl :
    stepTest { State.reset with hl := 0x8000, mem := [(0x8000, 0x01)] }
      [0xCB, 0x3E]
    (fun t => t.f == 0x45 && t.byteAt 0x8000 == 0x00 && t.tStates == 15) = true := by decide

/-- 95_test_vectors.md 3, R430. -/
theorem test_bitBR : stepTest { State.reset with af := 0x8000 } [0xCB, 0x7F]
    (fun t => t.f == 0x90 && t.tStates == 8) = true := by decide

/-- 95_test_vectors.md 3, R430. -/
theorem test_bitBR_again : stepTest { State.reset with af := 0x0001, bc := 0x2800 } [0xCB, 0x40]
    (fun t => t.f == 0x7D && t.tStates == 8) = true := by decide

/-- 95_test_vectors.md 3, R431. -/
theorem test_bitBIndHl : stepTest { State.reset with hl := 0x8000, memptr := 0x2800 } [0xCB, 0x5E]
    (fun t => t.f == 0x7C && t.tStates == 12) = true := by decide

/-- R433 example. -/
theorem test_resBR : stepTest { State.reset with bc := 0x00FF } [0xCB, 0x81]
    (fun t => t.reg .c == 0xFE && t.f == 0x00 && t.tStates == 8) = true := by decide

/-- 95_test_vectors.md 3, R434. -/
theorem test_resBIndHl :
    stepTest { State.reset with hl := 0x8000, mem := [(0x8000, 0xFF)] }
      [0xCB, 0xBE]
    (fun t => t.byteAt 0x8000 == 0x7F && t.tStates == 15) = true := by decide

/-- 95_test_vectors.md 3, R436. -/
theorem test_setBR : stepTest State.reset [0xCB, 0xC1]
    (fun t => t.reg .c == 0x01 && t.tStates == 8) = true := by decide

/-- R437 example. -/
theorem test_setBIndHl : stepTest { State.reset with hl := 0x8000 } [0xCB, 0xE6]
    (fun t => t.byteAt 0x8000 == 0x10 && t.tStates == 15) = true := by decide

/-- 95_test_vectors.md 3, R501. -/
theorem test_inRIndC :
    stepTest { State.reset with af := 0x0001, bc := 0x12FE, portIn := [0xFF] }
      [0xED, 0x40]
    (fun t => t.f == 0xAD && t.reg .b == 0xFF && t.memptr == 0x12FF && t.tStates == 12) = true
      := by decide

/-- R502 example. -/
theorem test_inIndC :
    stepTest { State.reset with af := 0x5500, bc := 0x12FE, portIn := [0x7F] }
      [0xED, 0x70]
    (fun t => t.f == 0x28 && t.reg .a == 0x55 && t.memptr == 0x12FF && t.bus.contains (.readPort
      0x12FE) && t.tStates == 12) = true := by decide

/-- R504 example. -/
theorem test_outIndCR : stepTest { State.reset with bc := 0xBFFE, de := 0x003C } [0xED, 0x59]
    (fun t => t.memptr == 0xBFFF && t.bus.contains (.writePort 0xBFFE 0x3C) && t.tStates == 12)
      = true := by decide

/-- 95_test_vectors.md 3, R505. -/
theorem test_outIndCZero : stepTest { State.reset with bc := 0x00FE } [0xED, 0x71]
    (fun t => t.memptr == 0x00FF && t.bus.contains (.writePort 0x00FE 0x00) && t.tStates == 12)
      = true := by decide

/-- 95_test_vectors.md 3, R382. -/
theorem test_sbcHlSs : stepTest { State.reset with de := 0x1234, hl := 0x1234 } [0xED, 0x52]
    (fun t => t.f == 0x42 && t.reg .h == 0x00 && t.reg .l == 0x00 && t.memptr == 0x1235 &&
      t.tStates == 15) = true := by decide

/-- 95_test_vectors.md 3, R382. -/
theorem test_sbcHlSs_again : stepTest { State.reset with af := 0x0001, sp := 0x0000 } [0xED, 0x72]
    (fun t => t.f == 0xBB && t.reg .h == 0xFF && t.reg .l == 0xFF && t.memptr == 0x0001 &&
      t.tStates == 15) = true := by decide

/-- 95_test_vectors.md 3, R381. -/
theorem test_adcHlSs : stepTest { State.reset with af := 0x0001, hl := 0x7FFF } [0xED, 0x4A]
    (fun t => t.f == 0x94 && t.reg .h == 0x80 && t.reg .l == 0x00 && t.memptr == 0x8000 &&
      t.tStates == 15) = true := by decide

/-- R266 example. -/
theorem test_ldIndNnDd : stepTest { State.reset with hl := 0x5566 } [0xED, 0x63, 0x00, 0x90]
    (fun t => t.memptr == 0x9001 && t.byteAt 0x9000 == 0x66 && t.byteAt 0x9001 == 0x55 &&
      t.tStates == 20) = true := by decide

/-- 95_test_vectors.md 3, R263. -/
theorem test_ldDdIndNn :
    stepTest { State.reset with mem := [(0x9000, 0x78), (0x9001, 0x56)] }
      [0xED, 0x5B, 0x00, 0x90]
    (fun t => t.reg .d == 0x56 && t.reg .e == 0x78 && t.memptr == 0x9001 && t.tStates == 20) =
      true := by decide

/-- 95_test_vectors.md 3, R347. -/
theorem test_neg : stepTest { State.reset with af := 0x8000 } [0xED, 0x44]
    (fun t => t.f == 0x87 && t.tStates == 8) = true := by decide

/-- 95_test_vectors.md 3, R347. -/
theorem test_neg_again : stepTest { State.reset with af := 0x0100 } [0xED, 0x4C]
    (fun t => t.reg .a == 0xFF && t.f == 0xBB && t.tStates == 8) = true := by decide

/-- 95_test_vectors.md 3, R471. -/
theorem test_retn :
    stepTest { State.reset with sp := 0x8FFE, iff2 := true, mem := [(0x8FFF, 0x20)] }
      [0xED, 0x45]
    (fun t => t.sp == 0x9000 && t.pc == 0x2000 && t.memptr == 0x2000 && t.iff1 && t.tStates ==
      14) = true := by decide

/-- 95_test_vectors.md 3, R470. -/
theorem test_reti :
    stepTest { State.reset with sp := 0x8FFE, iff1 := false, iff2 := true, mem := [(0x8FFF, 0x20)] }
      [0xED, 0x4D]
    (fun t => t.sp == 0x9000 && t.pc == 0x2000 && t.memptr == 0x2000 && t.iff1 && t.tStates ==
      14) = true := by decide

/-- 95_test_vectors.md 3, R354. -/
theorem test_imZero : stepTest { State.reset with im := .im2 } [0xED, 0x4E]
    (fun t => t.im == .im0 && t.tStates == 8) = true := by decide

/-- R355 example. -/
theorem test_imOne : stepTest State.reset [0xED, 0x56]
    (fun t => t.im == .im1 && t.tStates == 8) = true := by decide

/-- 95_test_vectors.md 3, R356. -/
theorem test_imTwo : stepTest State.reset [0xED, 0x5E]
    (fun t => t.im == .im2 && t.tStates == 8) = true := by decide

/-- R232 example. -/
theorem test_ldVectorA : stepTest { State.reset with af := 0x3F00 } [0xED, 0x47]
    (fun t => t.i == 0x3F && t.tStates == 9) = true := by decide

/-- 95_test_vectors.md 3, R233. -/
theorem test_ldRefreshA : stepTest { State.reset with af := 0x8000 } [0xED, 0x4F]
    (fun t => t.r == 0x80 && t.tStates == 9) = true := by decide

/-- 95_test_vectors.md 3, R231. -/
theorem test_ldAVector : stepTest { State.reset with i := 0x80, iff2 := true } [0xED, 0x57]
    (fun t => t.reg .a == 0x80 && t.f == 0x84 && t.tStates == 9) = true := by decide

/-- 95_test_vectors.md 3, R234. -/
theorem test_ldARefresh : stepTest { State.reset with r := 0x7F, iff2 := false } [0xED, 0x5F]
    (fun t => t.reg .a == 0x01 && t.r == 0x01 && t.tStates == 9) = true := by decide

/-- 95_test_vectors.md 3, R415. -/
theorem test_rrd :
    stepTest { State.reset with af := 0x1200, hl := 0x8000, mem := [(0x8000, 0x34)] }
      [0xED, 0x67]
    (fun t => t.reg .a == 0x14 && t.f == 0x04 && t.memptr == 0x8001 && t.byteAt 0x8000 == 0x23
      && t.tStates == 18) = true := by decide

/-- 95_test_vectors.md 3, R414. -/
theorem test_rld :
    stepTest { State.reset with af := 0x1200, hl := 0x8000, mem := [(0x8000, 0x34)] }
      [0xED, 0x6F]
    (fun t => t.reg .a == 0x13 && t.memptr == 0x8001 && t.byteAt 0x8000 == 0x42 && t.tStates ==
      18) = true := by decide

/-- 95_test_vectors.md 3, R306. -/
theorem test_ldi :
    stepTest { State.reset with bc := 0x0002, de := 0x9000, hl := 0x8000, mem := [(0x8000, 0x0A)] }
      [0xED, 0xA0]
    (fun t => t.f == 0x2C && t.reg .c == 0x01 && t.reg .e == 0x01 && t.reg .l == 0x01 &&
      t.tStates == 16) = true := by decide

/-- 95_test_vectors.md 3, R306. -/
theorem test_ldi_again :
    stepTest { State.reset with af := 0x2000, bc := 0x0001, de := 0x9000, hl := 0x8000, mem := [(0x8000, 0x02)] }
      [0xED, 0xA0]
    (fun t => t.f == 0x20 && t.reg .c == 0x00 && t.reg .e == 0x01 && t.reg .l == 0x01 &&
      t.tStates == 16) = true := by decide

/-- 95_test_vectors.md 3, R310. -/
theorem test_cpi :
    stepTest { State.reset with af := 0x4200, bc := 0x0005, hl := 0x8000, mem := [(0x8000, 0x42)] }
      [0xED, 0xA1]
    (fun t => t.f == 0x46 && t.reg .c == 0x04 && t.reg .l == 0x01 && t.memptr == 0x0001 &&
      t.tStates == 16) = true := by decide

/-- 95_test_vectors.md 3, R507. -/
theorem test_ini :
    stepTest { State.reset with bc := 0x02FE, hl := 0x8000, portIn := [0xFF] }
      [0xED, 0xA2]
    (fun t => t.f == 0x13 && t.reg .b == 0x01 && t.reg .l == 0x01 && t.memptr == 0x02FF &&
      t.byteAt 0x8000 == 0xFF && t.tStates == 16) = true := by decide

/-- 95_test_vectors.md 3, R511. -/
theorem test_outi :
    stepTest { State.reset with bc := 0x01FE, hl := 0x80FF, mem := [(0x80FF, 0x81)] }
      [0xED, 0xA3]
    (fun t => t.f == 0x42 && t.reg .b == 0x00 && t.reg .h == 0x81 && t.reg .l == 0x00 &&
      t.memptr == 0x00FF && t.bus.contains (.writePort 0x00FE 0x81) && t.tStates == 16) = true
      := by decide

/-- R307 example. -/
theorem test_ldd :
    stepTest { State.reset with af := 0x20C1, bc := 0x0001, de := 0x9000, hl := 0x8000, mem := [(0x8000, 0x02)] }
      [0xED, 0xA8]
    (fun t => t.f == 0xE1 && t.hl == 0x7FFF && t.de == 0x8FFF && t.bc == 0x0000 && t.tStates ==
      16) = true := by decide

/-- R311 example. -/
theorem test_cpd :
    stepTest { State.reset with af := 0x1001, bc := 0x0005, hl := 0x8000, memptr := 0x1234, mem := [(0x8000, 0x01)] }
      [0xED, 0xA9]
    (fun t => t.f == 0x3F && t.hl == 0x7FFF && t.bc == 0x0004 && t.memptr == 0x1233 && t.tStates
      == 16) = true := by decide

/-- R508 example. -/
theorem test_ind :
    stepTest { State.reset with bc := 0x0210, hl := 0x8000, portIn := [0xF0] }
      [0xED, 0xAA]
    (fun t => t.reg .b == 0x01 && t.hl == 0x7FFF && t.f == 0x06 && t.memptr == 0x020F &&
      t.byteAt 0x8000 == 0xF0 && t.tStates == 16) = true := by decide

/-- R512 example. -/
theorem test_outd :
    stepTest { State.reset with bc := 0x0510, hl := 0x80FF, mem := [(0x80FF, 0x81)] }
      [0xED, 0xAB]
    (fun t => t.hl == 0x80FE && t.f == 0x17 && t.memptr == 0x040F && t.bus.contains (.writePort
      0x0410 0x81) && t.tStates == 16) = true := by decide

/-- 95_test_vectors.md 3, R308. -/
theorem test_ldir :
    stepTest { State.reset with bc := 0x0003, de := 0x9000, hl := 0x8000 }
      [0xED, 0xB0]
    (fun t => t.f == 0x04 && t.reg .c == 0x02 && t.reg .e == 0x01 && t.reg .l == 0x01 &&
      t.memptr == 0x0001 && t.tStates == 21) = true := by decide

/-- 95_test_vectors.md 3, R308. -/
theorem test_ldir_again :
    stepTest { State.reset with bc := 0x0001, de := 0x9000, hl := 0x8000 }
      [0xED, 0xB0]
    (fun t => t.reg .c == 0x00 && t.reg .e == 0x01 && t.reg .l == 0x01 && t.pc == 0x0002 &&
      t.tStates == 16) = true := by decide

/-- 95_test_vectors.md 3, R312. -/
theorem test_cpir :
    stepTest { State.reset with af := 0x4200, bc := 0x0005, hl := 0x8000 }
      [0xED, 0xB1]
    (fun t => t.f == 0x26 && t.reg .c == 0x04 && t.reg .l == 0x01 && t.memptr == 0x0001 &&
      t.tStates == 21) = true := by decide

/-- R509 example. -/
theorem test_inir :
    stepTest { State.reset with bc := 0x0210, hl := 0x8000, portIn := [0x01] }
      [0xED, 0xB2]
    (fun t => t.reg .b == 0x01 && t.hl == 0x8001 && t.f == 0x04 && t.pc == 0x0000 && t.tStates
      == 21) = true := by decide

/-- 95_test_vectors.md 3, R513. -/
theorem test_otir :
    stepTest { State.reset with bc := 0x02FE, hl := 0x8000, mem := [(0x8000, 0x10)] }
      [0xED, 0xB3]
    (fun t => t.f == 0x04 && t.reg .b == 0x01 && t.reg .l == 0x01 && t.memptr == 0x01FF &&
      t.bus.contains (.writePort 0x01FE 0x10) && t.tStates == 21) = true := by decide

/-- R309 example. -/
theorem test_lddr :
    stepTest { State.reset with bc := 0x0002, de := 0x9001, hl := 0x8001, pc := 0x0300, mem := [(0x8001, 0x07)] }
      [0xED, 0xB8]
    (fun t => t.f == 0x24 && t.pc == 0x0300 && t.memptr == 0x0301 && t.tStates == 21) = true :=
      by decide

/-- 95_test_vectors.md 3, R313. -/
theorem test_cpdr :
    stepTest { State.reset with af := 0x4200, bc := 0x0005, hl := 0x8000, mem := [(0x8000, 0x42)] }
      [0xED, 0xB9]
    (fun t => t.f == 0x46 && t.reg .c == 0x04 && t.reg .h == 0x7F && t.reg .l == 0xFF && t.pc ==
      0x0002 && t.memptr == 0xFFFF && t.tStates == 16) = true := by decide

/-- R313 example. -/
theorem test_cpdr_again :
    stepTest { State.reset with af := 0x9900, bc := 0x0002, hl := 0x8001, pc := 0x0200 }
      [0xED, 0xB9]
    (fun t => t.f == 0x8E && t.bc == 0x0001 && t.hl == 0x8000 && t.pc == 0x0200 && t.memptr ==
      0x0201 && t.tStates == 21) = true := by decide

/-- R510 example. -/
theorem test_indr :
    stepTest { State.reset with bc := 0x0110, hl := 0x8000, portIn := [0xFF] }
      [0xED, 0xBA]
    (fun t => t.reg .b == 0x00 && t.hl == 0x7FFF && t.f == 0x57 && t.pc == 0x0002 && t.byteAt
      0x8000 == 0xFF && t.tStates == 16) = true := by decide

/-- R514 example. -/
theorem test_otdr :
    stepTest { State.reset with bc := 0x0010, hl := 0x8000, mem := [(0x8000, 0x11)] }
      [0xED, 0xBB]
    (fun t => t.reg .b == 0xFF && t.hl == 0x7FFF && t.f == 0xBD && t.memptr == 0xFF0F && t.pc ==
      0x0000 && t.bus.contains (.writePort 0xFF10 0x11) && t.tStates == 21) = true := by decide

/-- 95_test_vectors.md 3, R357. -/
theorem test_nopEd : stepTest State.reset [0xED, 0x00]
    (fun t => t.pc == 0x0002 && t.r == 0x02 && t.tStates == 8) = true := by decide

/-- 95_test_vectors.md 3, R383. -/
theorem test_addIdxPp : stepTest { State.reset with ix := 0x8800 } [0xDD, 0x29]
    (fun t => t.f == 0x11 && t.ix == 0x1000 && t.memptr == 0x8801 && t.tStates == 15) = true :=
      by decide

/-- R261 example. -/
theorem test_ldIdxNn : stepTest State.reset [0xDD, 0x21, 0x00, 0x80]
    (fun t => t.ix == 0x8000 && t.tStates == 14) = true := by decide

/-- R267 example. -/
theorem test_ldIndNnIdx : stepTest { State.reset with ix := 0x1234 } [0xDD, 0x22, 0x00, 0x80]
    (fun t => t.memptr == 0x8001 && t.byteAt 0x8000 == 0x34 && t.byteAt 0x8001 == 0x12 &&
      t.tStates == 20) = true := by decide

/-- R264 example. -/
theorem test_ldIdxIndNn :
    stepTest { State.reset with mem := [(0x8000, 0x34), (0x8001, 0x12)] }
      [0xFD, 0x2A, 0x00, 0x80]
    (fun t => t.iy == 0x1234 && t.memptr == 0x8001 && t.tStates == 20) = true := by decide

/-- 95_test_vectors.md 3, R385. -/
theorem test_incIdx : stepTest { State.reset with iy := 0x00FF } [0xFD, 0x23]
    (fun t => t.iy == 0x0100 && t.tStates == 10) = true := by decide

/-- R387 example. -/
theorem test_decIdx : stepTest State.reset [0xFD, 0x2B]
    (fun t => t.iy == 0xFFFF && t.tStates == 10) = true := by decide

/-- 95_test_vectors.md 2.2. -/
theorem test_incIdxHalf : stepTest { State.reset with af := 0x0001, ix := 0xFF00 } [0xDD, 0x24]
    (fun t => t.ix == 0x0000 && t.f == 0x51 && t.tStates == 8) = true := by decide

/-- 95_test_vectors.md 3, R342. -/
theorem test_decIdxHalf : stepTest { State.reset with ix := 0x1200 } [0xDD, 0x2D]
    (fun t => t.f == 0xBA && t.ix == 0x12FF && t.tStates == 8) = true := by decide

/-- R241 example. -/
theorem test_ldIdxHalfN : stepTest { State.reset with ix := 0x1234 } [0xDD, 0x2E, 0x99]
    (fun t => t.ix == 0x1299 && t.tStates == 11) = true := by decide

/-- R341 example. -/
theorem test_incIndIdx :
    stepTest { State.reset with iy := 0x8001, mem := [(0x8000, 0x0F)] }
      [0xFD, 0x34, 0xFF]
    (fun t => t.f == 0x10 && t.memptr == 0x8000 && t.byteAt 0x8000 == 0x10 && t.tStates == 23) =
      true := by decide

/-- 95_test_vectors.md 3, R344. -/
theorem test_decIndIdx :
    stepTest { State.reset with iy := 0x8002, mem := [(0x8000, 0x01)] }
      [0xFD, 0x35, 0xFE]
    (fun t => t.f == 0x42 && t.memptr == 0x8000 && t.byteAt 0x8000 == 0x00 && t.tStates == 23) =
      true := by decide

/-- 95_test_vectors.md 3, R237. -/
theorem test_ldIndIdxN : stepTest { State.reset with iy := 0x8000 } [0xFD, 0x36, 0x02, 0xAB]
    (fun t => t.memptr == 0x8002 && t.byteAt 0x8002 == 0xAB && t.tStates == 19) = true := by decide

/-- 95_test_vectors.md 3, R235. -/
theorem test_ldRIndIdx :
    stepTest { State.reset with ix := 0x8001, mem := [(0x8000, 0x3C)] }
      [0xDD, 0x7E, 0xFF]
    (fun t => t.reg .a == 0x3C && t.memptr == 0x8000 && t.tStates == 19) = true := by decide

/-- 95_test_vectors.md 3, R235. -/
theorem test_ldRIndIdx_again :
    stepTest { State.reset with ix := 0x8000, mem := [(0x8000, 0x55)] }
      [0xDD, 0x66, 0x00]
    (fun t => t.reg .h == 0x55 && t.memptr == 0x8000 && t.tStates == 19) = true := by decide

/-- R236 example. -/
theorem test_ldIndIdxR : stepTest { State.reset with bc := 0x0077, iy := 0x8000 } [0xFD, 0x71, 0xFE]
    (fun t => t.byteAt 0x7FFE == 0x77 && t.tStates == 19) = true := by decide

/-- R238 example. -/
theorem test_ldRIdxHalf : stepTest { State.reset with ix := 0x1234 } [0xDD, 0x7C]
    (fun t => t.reg .a == 0x12 && t.tStates == 8) = true := by decide

/-- 95_test_vectors.md 3, R238. -/
theorem test_ldIdxHalfR : stepTest { State.reset with bc := 0x1100, ix := 0x2233 } [0xDD, 0x60]
    (fun t => t.ix == 0x1133 && t.tStates == 8) = true := by decide

/-- R239 example. -/
theorem test_ldIdxHalfR_again :
    stepTest { State.reset with bc := 0x5600, iy := 0x1234 }
      [0xFD, 0x68]
    (fun t => t.iy == 0x1256 && t.tStates == 8) = true := by decide

/-- R240 example. -/
theorem test_ldIdxHalfIdxHalf : stepTest { State.reset with ix := 0x1234 } [0xDD, 0x65]
    (fun t => t.ix == 0x3434 && t.tStates == 8) = true := by decide

/-- 95_test_vectors.md 2.1. -/
theorem test_addAIdxHalf : stepTest { State.reset with af := 0x0F00, ix := 0x2001 } [0xDD, 0x85]
    (fun t => t.reg .a == 0x10 && t.f == 0x10 && t.tStates == 8) = true := by decide

/-- 95_test_vectors.md 2.1. -/
theorem test_addAIndIdx :
    stepTest { State.reset with af := 0x8000, iy := 0x8001, mem := [(0x8000, 0x80)] }
      [0xFD, 0x86, 0xFF]
    (fun t => t.reg .a == 0x00 && t.f == 0x45 && t.memptr == 0x8000 && t.tStates == 19) = true
      := by decide

/-- 95_test_vectors.md 2.1. -/
theorem test_adcAIdxHalf : stepTest { State.reset with af := 0xFF01, iy := 0xFF00 } [0xFD, 0x8C]
    (fun t => t.reg .a == 0xFF && t.f == 0xB9 && t.tStates == 8) = true := by decide

/-- 95_test_vectors.md 2.1. -/
theorem test_adcAIndIdx :
    stepTest { State.reset with af := 0x3A01, ix := 0x8000, mem := [(0x8001, 0xC6)] }
      [0xDD, 0x8E, 0x01]
    (fun t => t.reg .a == 0x01 && t.f == 0x11 && t.tStates == 19) = true := by decide

/-- 95_test_vectors.md 2.1. -/
theorem test_subIdxHalf : stepTest { State.reset with af := 0x1000, ix := 0x0100 } [0xDD, 0x94]
    (fun t => t.reg .a == 0x0F && t.f == 0x1A && t.tStates == 8) = true := by decide

/-- 95_test_vectors.md 2.1. -/
theorem test_subIndIdx :
    stepTest { State.reset with af := 0x8000, ix := 0x8080, mem := [(0x8000, 0x01)] }
      [0xDD, 0x96, 0x80]
    (fun t => t.reg .a == 0x7F && t.f == 0x3E && t.tStates == 19) = true := by decide

/-- R334 example. -/
theorem test_sbcAIdxHalf : stepTest { State.reset with af := 0x0001 } [0xDD, 0x9C]
    (fun t => t.reg .a == 0xFF && t.f == 0xBB && t.tStates == 8) = true := by decide

/-- 95_test_vectors.md 2.1. -/
theorem test_sbcAIndIdx :
    stepTest { State.reset with af := 0x2001, iy := 0x8000, mem := [(0x807F, 0x0F)] }
      [0xFD, 0x9E, 0x7F]
    (fun t => t.reg .a == 0x10 && t.f == 0x12 && t.tStates == 19) = true := by decide

/-- 95_test_vectors.md 2.2. -/
theorem test_andIdxHalf : stepTest { State.reset with af := 0x2C00, ix := 0x0038 } [0xDD, 0xA5]
    (fun t => t.reg .a == 0x28 && t.f == 0x3C && t.tStates == 8) = true := by decide

/-- 95_test_vectors.md 2.2. -/
theorem test_andIndIdx :
    stepTest { State.reset with af := 0xF000, ix := 0x8000, mem := [(0x8000, 0x0F)] }
      [0xDD, 0xA6, 0x00]
    (fun t => t.reg .a == 0x00 && t.f == 0x54 && t.tStates == 19) = true := by decide

/-- 95_test_vectors.md 2.2. -/
theorem test_xorIdxHalf : stepTest { State.reset with af := 0xF000, iy := 0x0F00 } [0xFD, 0xAC]
    (fun t => t.reg .a == 0xFF && t.f == 0xAC && t.tStates == 8) = true := by decide

/-- 95_test_vectors.md 2.2. -/
theorem test_xorIndIdx :
    stepTest { State.reset with af := 0x8000, iy := 0x8000, mem := [(0x8000, 0x01)] }
      [0xFD, 0xAE, 0x00]
    (fun t => t.reg .a == 0x81 && t.f == 0x84 && t.tStates == 19) = true := by decide

/-- 95_test_vectors.md 2.2. -/
theorem test_orIdxHalf : stepTest { State.reset with af := 0x8000, ix := 0x0001 } [0xDD, 0xB5]
    (fun t => t.reg .a == 0x81 && t.f == 0x84 && t.tStates == 8) = true := by decide

/-- 95_test_vectors.md 3, R337. -/
theorem test_orIndIdx :
    stepTest { State.reset with af := 0x0100, ix := 0x8000, mem := [(0x8005, 0x80)] }
      [0xDD, 0xB6, 0x05]
    (fun t => t.reg .a == 0x81 && t.f == 0x84 && t.memptr == 0x8005 && t.tStates == 19) = true
      := by decide

/-- 95_test_vectors.md 2.2. -/
theorem test_cpIdxHalf : stepTest { State.reset with af := 0x1000, ix := 0x2800 } [0xDD, 0xBC]
    (fun t => t.reg .a == 0x10 && t.f == 0xBB && t.tStates == 8) = true := by decide

/-- 95_test_vectors.md 2.2. -/
theorem test_cpIndIdx :
    stepTest { State.reset with af := 0x8000, iy := 0x8000, mem := [(0x8002, 0x01)] }
      [0xFD, 0xBE, 0x02]
    (fun t => t.reg .a == 0x80 && t.f == 0x16 && t.tStates == 19) = true := by decide

/-- R273 example. -/
theorem test_popIdx :
    stepTest { State.reset with sp := 0x8000, mem := [(0x8000, 0x34), (0x8001, 0x12)] }
      [0xFD, 0xE1]
    (fun t => t.iy == 0x1234 && t.sp == 0x8002 && t.tStates == 14) = true := by decide

/-- R304 example. -/
theorem test_exIndSpIdx :
    stepTest { State.reset with sp := 0x8000, ix := 0xABCD, mem := [(0x8000, 0x34), (0x8001, 0x12)] }
      [0xDD, 0xE3]
    (fun t => t.ix == 0x1234 && t.memptr == 0x1234 && t.byteAt 0x8000 == 0xCD && t.byteAt 0x8001
      == 0xAB && t.tStates == 23) = true := by decide

/-- 95_test_vectors.md 3, R271. -/
theorem test_pushIdx : stepTest { State.reset with ix := 0xBEEF, sp := 0x0001 } [0xDD, 0xE5]
    (fun t => t.sp == 0xFFFF && t.byteAt 0x0000 == 0xBE && t.byteAt 0xFFFF == 0xEF && t.tStates
      == 15) = true := by decide

/-- R464 example. -/
theorem test_jpIndIdx : stepTest { State.reset with ix := 0x4000 } [0xDD, 0xE9]
    (fun t => t.pc == 0x4000 && t.tStates == 8) = true := by decide

/-- R269 example. -/
theorem test_ldSpIdx : stepTest { State.reset with iy := 0x4321 } [0xFD, 0xF9]
    (fun t => t.sp == 0x4321 && t.tStates == 10) = true := by decide

/-- 95_test_vectors.md 3, R358. -/
theorem test_ignoredIndexPrefix : stepTest State.reset [0xDD, 0x00]
    (fun t => t.pc == 0x0002 && t.r == 0x02 && t.tStates == 8) = true := by decide

/-- R406, 95_test_vectors.md 2.3. -/
theorem test_rlcIndIdx :
    stepTest { State.reset with ix := 0x8000, mem := [(0x8001, 0x80)] }
      [0xDD, 0xCB, 0x01, 0x06]
    (fun t => t.f == 0x01 && t.memptr == 0x8001 && t.byteAt 0x8001 == 0x01 && t.tStates == 23) =
      true := by decide

/-- 95_test_vectors.md 3, R405. -/
theorem test_rlcIndIdxR :
    stepTest { State.reset with ix := 0x8000, mem := [(0x8001, 0x80)] }
      [0xDD, 0xCB, 0x01, 0x00]
    (fun t => t.f == 0x01 && t.reg .b == 0x01 && t.memptr == 0x8001 && t.byteAt 0x8001 == 0x01
      && t.tStates == 23) = true := by decide

/-- 95_test_vectors.md 2.3. -/
theorem test_rrcIndIdx :
    stepTest { State.reset with iy := 0x8001, mem := [(0x8000, 0x01)] }
      [0xFD, 0xCB, 0xFF, 0x0E]
    (fun t => t.f == 0x81 && t.byteAt 0x8000 == 0x80 && t.tStates == 23) = true := by decide

/-- 95_test_vectors.md 2.3, R405. -/
theorem test_rrcIndIdxR :
    stepTest { State.reset with hl := 0x5500, iy := 0x8001, mem := [(0x8000, 0x80)] }
      [0xFD, 0xCB, 0xFF, 0x0C]
    (fun t => t.f == 0x00 && t.reg .h == 0x40 && t.iy == 0x8001 && t.byteAt 0x8000 == 0x40 &&
      t.tStates == 23) = true := by decide

/-- 95_test_vectors.md 2.3. -/
theorem test_rlIndIdx :
    stepTest { State.reset with ix := 0x8000, mem := [(0x8000, 0x80)] }
      [0xDD, 0xCB, 0x00, 0x16]
    (fun t => t.f == 0x45 && t.byteAt 0x8000 == 0x00 && t.tStates == 23) = true := by decide

/-- 95_test_vectors.md 2.3. -/
theorem test_rlIndIdxR :
    stepTest { State.reset with af := 0x0001, ix := 0x8000, mem := [(0x8000, 0x01)] }
      [0xDD, 0xCB, 0x00, 0x15]
    (fun t => t.f == 0x04 && t.reg .l == 0x03 && t.ix == 0x8000 && t.byteAt 0x8000 == 0x03 &&
      t.tStates == 23) = true := by decide

/-- 95_test_vectors.md 2.3. -/
theorem test_rrIndIdx :
    stepTest { State.reset with ix := 0x8000, mem := [(0x8000, 0x80)] }
      [0xDD, 0xCB, 0x00, 0x1E]
    (fun t => t.f == 0x00 && t.byteAt 0x8000 == 0x40 && t.tStates == 23) = true := by decide

/-- 95_test_vectors.md 2.3. -/
theorem test_rrIndIdxR :
    stepTest { State.reset with af := 0x0001, ix := 0x8000, mem := [(0x8000, 0x01)] }
      [0xDD, 0xCB, 0x00, 0x19]
    (fun t => t.f == 0x81 && t.reg .c == 0x80 && t.byteAt 0x8000 == 0x80 && t.tStates == 23) =
      true := by decide

/-- 95_test_vectors.md 2.3. -/
theorem test_slaIndIdx :
    stepTest { State.reset with iy := 0x8000, mem := [(0x8000, 0x80)] }
      [0xFD, 0xCB, 0x00, 0x26]
    (fun t => t.f == 0x45 && t.byteAt 0x8000 == 0x00 && t.tStates == 23) = true := by decide

/-- 95_test_vectors.md 2.3. -/
theorem test_slaIndIdxR :
    stepTest { State.reset with iy := 0x8000, mem := [(0x8000, 0x01)] }
      [0xFD, 0xCB, 0x00, 0x22]
    (fun t => t.f == 0x00 && t.reg .d == 0x02 && t.byteAt 0x8000 == 0x02 && t.tStates == 23) =
      true := by decide

/-- 95_test_vectors.md 2.3. -/
theorem test_sraIndIdx :
    stepTest { State.reset with ix := 0x8000, mem := [(0x8000, 0x01)] }
      [0xDD, 0xCB, 0x00, 0x2E]
    (fun t => t.f == 0x45 && t.byteAt 0x8000 == 0x00 && t.tStates == 23) = true := by decide

/-- 95_test_vectors.md 2.3. -/
theorem test_sraIndIdxR :
    stepTest { State.reset with ix := 0x8000, mem := [(0x8000, 0x80)] }
      [0xDD, 0xCB, 0x00, 0x2B]
    (fun t => t.f == 0x84 && t.reg .e == 0xC0 && t.byteAt 0x8000 == 0xC0 && t.tStates == 23) =
      true := by decide

/-- 95_test_vectors.md 2.3. -/
theorem test_sllIndIdx :
    stepTest { State.reset with ix := 0x8000, mem := [(0x8000, 0x80)] }
      [0xDD, 0xCB, 0x00, 0x36]
    (fun t => t.f == 0x01 && t.byteAt 0x8000 == 0x01 && t.tStates == 23) = true := by decide

/-- 95_test_vectors.md 2.3. -/
theorem test_sllIndIdxR :
    stepTest { State.reset with ix := 0x8000, mem := [(0x8000, 0x01)] }
      [0xDD, 0xCB, 0x00, 0x37]
    (fun t => t.f == 0x04 && t.reg .a == 0x03 && t.byteAt 0x8000 == 0x03 && t.tStates == 23) =
      true := by decide

/-- 95_test_vectors.md 2.3. -/
theorem test_srlIndIdx :
    stepTest { State.reset with iy := 0x8000, mem := [(0x8000, 0x80)] }
      [0xFD, 0xCB, 0x00, 0x3E]
    (fun t => t.f == 0x00 && t.byteAt 0x8000 == 0x40 && t.tStates == 23) = true := by decide

/-- 95_test_vectors.md 2.3. -/
theorem test_srlIndIdxR :
    stepTest { State.reset with iy := 0x8002, mem := [(0x8000, 0x01)] }
      [0xFD, 0xCB, 0xFE, 0x38]
    (fun t => t.f == 0x45 && t.reg .b == 0x00 && t.byteAt 0x8000 == 0x00 && t.tStates == 23) =
      true := by decide

/-- 95_test_vectors.md 3, R432. -/
theorem test_bitBIndIdx :
    stepTest { State.reset with ix := 0x27F0, mem := [(0x2800, 0x02)] }
      [0xDD, 0xCB, 0x10, 0x4E]
    (fun t => t.f == 0x38 && t.memptr == 0x2800 && t.tStates == 20) = true := by decide

/-- R435 example. -/
theorem test_resBIndIdx :
    stepTest { State.reset with iy := 0x8000, mem := [(0x7FFF, 0xFF)] }
      [0xFD, 0xCB, 0xFF, 0x9E]
    (fun t => t.memptr == 0x7FFF && t.byteAt 0x7FFF == 0xF7 && t.tStates == 23) = true := by decide

/-- R435. -/
theorem test_resBIndIdxR :
    stepTest { State.reset with ix := 0x8000, mem := [(0x8000, 0xFF)] }
      [0xDD, 0xCB, 0x00, 0xB9]
    (fun t => t.reg .c == 0x7F && t.byteAt 0x8000 == 0x7F && t.tStates == 23) = true := by decide

/-- R438 example. -/
theorem test_setBIndIdx : stepTest { State.reset with ix := 0x8000 } [0xDD, 0xCB, 0x01, 0xC6]
    (fun t => t.memptr == 0x8001 && t.byteAt 0x8001 == 0x01 && t.tStates == 23) = true := by decide

/-- 95_test_vectors.md 3, R438. -/
theorem test_setBIndIdxR : stepTest { State.reset with iy := 0x8001 } [0xFD, 0xCB, 0xFF, 0xE7]
    (fun t => t.reg .a == 0x10 && t.memptr == 0x8000 && t.byteAt 0x8000 == 0x10 && t.tStates ==
      23) = true := by decide

/-! ## Signals (95_test_vectors.md 4.1) and the step's corner cases -/

/-- NMI. -/
theorem test_nmi :
    stepTest { State.reset with
      pc := 0x1234, sp := 0x9000, iff1 := true, iff2 := true, nmiRequested := true } []
      (fun t => t.pc == 0x0066 && t.sp == 0x8FFE && t.byteAt 0x8FFE == 0x34 && t.byteAt 0x8FFF == 0x12
        && !t.iff1 && t.iff2 && t.memptr == 0x0066 && t.tStates == 11) = true := by
  decide

/-- INT IM 1. -/
theorem test_int_mode_1 :
    stepTest { State.reset with
      pc := 0x2000, sp := 0x9000, im := .im1, iff1 := true, iff2 := true, intRequested := true } []
      (fun t => t.pc == 0x0038 && t.sp == 0x8FFE && t.byteAt 0x8FFF == 0x20 && !t.iff1 && !t.iff2
        && t.tStates == 13) = true := by
  decide

/-- INT IM 2, odd DataBus. -/
theorem test_int_mode_2_odd_data_bus :
    stepTest { State.reset with
      pc := 0x2000, sp := 0x9000, im := .im2, i := 0x80, dataBus := 0x11, iff1 := true,
      intRequested := true, mem := [(0x8011, 0xC0), (0x8012, 0x12)] } []
      (fun t => t.pc == 0x12C0 && t.memptr == 0x12C0 && t.tStates == 19) = true := by
  decide

/-- NMI over INT. -/
theorem test_nmi_over_int :
    stepTest { State.reset with
      pc := 0x2000, sp := 0x9000, iff1 := true, nmiRequested := true, intRequested := true } []
      (fun t => t.pc == 0x0066 && t.bus.contains .ackNmi && !t.bus.contains .ackInt) = true := by
  decide

/-- RESET over NMI. -/
theorem test_reset_over_nmi :
    stepTest { State.reset with
      pc := 0x2000, im := .im2, i := 0x80, r := 0x85, iff1 := true, resetRequested := true,
      nmiRequested := true } []
      (fun t => t.pc == 0 && t.i == 0 && t.r == 0 && t.im == .im0 && !t.iff1 && t.tStates == 3
        && t.bus == [.ackReset]) = true := by
  decide

/-- INT wakes HALT. -/
theorem test_int_wakes_halt :
    stepTest { State.reset with
      halted := true, sp := 0x9000, im := .im1, iff1 := true, intRequested := true } [0x76]
      (fun t => !t.halted && t.pc == 0x0038 && t.byteAt 0x8FFE == 0x01 && t.byteAt 0x8FFF == 0x00) = true := by
  decide

/-- INT refused, EI shadow; halted cycle. -/
theorem test_refused_int_and_halted_cycle :
    stepTest { State.reset with iff1 := true, intBlocked := true, intRequested := true } [0x00]
      (fun t => t.pc == 1 && !t.intBlocked && t.tStates == 4) = true
    ∧ stepTest { State.reset with halted := true, r := 0x7F } [0x76]
      (fun t => t.pc == 0 && t.halted && t.r == 0x00 && t.tStates == 4) = true := by
  decide

/-- NMI deferred by prefix. -/
theorem test_nmi_deferred_by_prefix :
    stepTest { State.reset with
      pendingIndex := some .ix, intBlocked := true, pc := 0x0001, nmiRequested := true } [0x21, 0x34, 0x12]
      (fun t => t.ix == 0x1234 && t.pc == 0x0004 && t.r == 0x01 && t.tStates == 10) = true := by
  decide

/-- INT deferred by a prefix that a restore left pending with INT_BLOCKED = 0 (10_state.md R46). -/
theorem test_int_deferred_by_restored_prefix :
    stepTest { State.reset with
      pendingIndex := some .ix, pc := 0x0001, iff1 := true, intRequested := true } [0x21, 0x34, 0x12]
      (fun t => t.ix == 0x1234 && t.pc == 0x0004 && t.iff1 && t.pendingIndex == none) = true := by
  decide

/-- The bytes read are the host's (20_memory.md R82): it answers `LD A,(HL)` and then 0x99 where the memory
holds `00` and 0x11; with only the opcode answered, the byte is the memory's. -/
theorem test_host_answers_reads :
    stepTest ({ State.reset with hl := 0x8000, mem := [(0x8000, 0x11)] }.withAnswers [0x7E, 0x99, 0x55] []) [0x00]
      (fun t => t.a == 0x99 && t.memIn == [0x55] && t.pc == 1) = true
    ∧ stepTest ({ State.reset with hl := 0x8000, mem := [(0x8000, 0x11)] }.withAnswers [0x7E] []) [0x00]
      (fun t => t.a == 0x11 && t.memIn == []) = true := by
  decide

/-- Redundant prefix (95_test_vectors.md 4.2, step 1). -/
theorem test_redundant_prefix :
    stepTest State.reset [0xDD, 0xDD, 0x21, 0x34, 0x12]
      (fun t => t.pc == 2 && t.pendingIndex == some .ix && t.intBlocked && t.r == 0x02 && t.tStates == 8)
      = true := by
  decide

/-- 44_arith8_control.md R358, 30_encoding.md R124: a prefix before ED is dropped, and the step runs
the ED instruction: `DD ED 44` is NEG in 12 T-states. -/
theorem test_prefix_before_ed :
    stepTest { State.reset with af := 0x0100 } [0xDD, 0xED, 0x44]
      (fun t => t.af == 0xFFBB && t.pc == 3 && t.r == 0x03 && t.tStates == 12) = true := by
  decide

/-! ## Witnesses -/

/-- The reset state with bytes placed at PC. -/
def withBytes (bs : List Byte) : State := State.reset.placeAtPc bs

theorem witness_EncodeInvertsDecode :
    Instr.wellFormed (.nopEd 0xFF) = true ∧ encode (.nopEd 0xFF) <+: [0xED, 0xFF, 0x00, 0x00]
    ∧ Instr.wellFormed (.ignoredIndexPrefix .ix 0xFD) = true
    ∧ encode (.ignoredIndexPrefix .ix 0xFD) <+: [0xDD, 0xFD, 0x00, 0x00] := by
  decide

theorem witness_DecodeInvertsEncode :
    Instr.wellFormed (.retn 7) = true ∧ Instr.wellFormed (.nopEd 0xFF) = true
    ∧ Instr.wellFormed (.ldRIdxHalf .iy .a .low) = true
    ∧ Instr.wellFormed (.ignoredIndexPrefix .ix 0xFD) = true := by
  decide

theorem witness_StepRunsTheDecodedInstruction :
    ((withBytes [0x21, 0xFF, 0xFF]).noSignal = true ∧ (withBytes [0x21, 0xFF, 0xFF]).halted = false
      ∧ (withBytes [0x21, 0xFF, 0xFF]).pendingIndex = none
      ∧ (withBytes [0x21, 0xFF, 0xFF]).BytesAtPc (encode (.ldDdNn .hl 0xFFFF))
      ∧ goesOn (.ldDdNn .hl 0xFFFF) = false) := by
  unfold State.BytesAtPc; decide

theorem witness_StepRunsTheDecodedInstruction_pending :
    let s := { withBytes [0x21, 0xFF, 0xFF] with pendingIndex := some .iy, intBlocked := true }
    s.noSignal = true ∧ s.halted = false ∧ s.pendingIndex = some .iy
      ∧ encode (.ldIdxNn .iy 0xFFFF) = IdxReg.iy.prefixByte :: (encode (.ldIdxNn .iy 0xFFFF)).tail
      ∧ s.BytesAtPc (encode (.ldIdxNn .iy 0xFFFF)).tail := by
  unfold State.BytesAtPc; decide

theorem witness_StepRunsTheDecodedInstruction_goesOn :
    let s := withBytes [0xDD, 0xEB]
    s.noSignal = true ∧ s.halted = false ∧ s.pendingIndex = none
      ∧ Instr.wellFormed (.ignoredIndexPrefix .ix 0xEB) = true
      ∧ s.BytesAtPc (encode (.ignoredIndexPrefix .ix 0xEB))
      ∧ goesOn (.ignoredIndexPrefix .ix 0xEB) = true := by
  unfold State.BytesAtPc; decide

theorem witness_StepFollowsTheAlgorithm :
    (State.reset.pendingIndex = none ∨ State.reset.intBlocked = true)
    ∧ { State.reset with pendingIndex := some .ix, iff1 := true, intRequested := true }.pendingIndex ≠ none := by
  decide

theorem witness_ResetServiceEffect :
    { State.reset with resetRequested := true, nmiRequested := true }.resetRequested = true := by
  decide

theorem witness_NmiServiceEffect :
    { State.reset with nmiRequested := true, halted := true, pc := 0xFFFF }.takesNmi = true
    ∧ { State.reset with nmiRequested := true, intRequested := true, iff1 := true }.takesNmi = true := by
  decide

theorem witness_IntServiceModes0And1Effect :
    ({ State.reset with intRequested := true, iff1 := true, im := .im0 }.takesInt = true
      ∧ { State.reset with intRequested := true, iff1 := true, im := .im0 }.im ≠ .im2)
    ∧ ({ State.reset with intRequested := true, iff1 := true, im := .im1 }.takesInt = true
      ∧ { State.reset with intRequested := true, iff1 := true, im := .im1 }.im ≠ .im2) := by
  decide

theorem witness_IntServiceMode2Effect :
    { State.reset with intRequested := true, iff1 := true, im := .im2, i := 0xFF, dataBus := 0xFF }.takesInt
      = true := by
  decide

theorem witness_HaltedCycleEffect :
    { State.reset with halted := true, intRequested := true }.noSignal = true
    ∧ { State.reset with halted := true, intRequested := true, iff1 := true, intBlocked := true }.noSignal
      = true := by
  decide

theorem witness_EveryStepKeepsTheInvariant : Inv State.reset ∧ ∃ t, step State.reset = .next t :=
  ⟨⟨rfl, by decide, by decide, by decide⟩, _, rfl⟩

theorem witness_RegistersWithOneWriter :
    (withBytes [0xED, 0x47]).takesReset = false ∧ (withBytes [0xED, 0x47]).runsInstr.1 = .ldVectorA
    ∧ (withBytes [0xED, 0x4F]).runsInstr.1 = .ldRefreshA ∧ (withBytes [0x08]).runsInstr.1 = .exAfAf
    ∧ (withBytes [0xDD, 0xD9]).runsInstr.1 = .exx := by
  decide

theorem witness_InterruptStateTable :
    { State.reset with resetRequested := true }.takesReset = true
    ∧ { State.reset with nmiRequested := true }.takesNmi = true
    ∧ { State.reset with intRequested := true, iff1 := true }.takesInt = true
    ∧ (withBytes [0xDD, 0xFB]).runsInstr.1 = .ei ∧ (withBytes [0xED, 0x7D]).runsInstr.1 = .retn 7 := by
  decide

theorem witness_StepTakesTheTimeOfItsRow :
    ((withBytes [0x18, 0x00]).noSignal = true ∧ (withBytes [0x18, 0x00]).halted = false
      ∧ (withBytes [0x18, 0x00]).pendingIndex = none ∧ (withBytes [0x18, 0x00]).nextInstr = .jr 0x00)
    ∧ (withBytes [0xDD, 0xFD]).nextInstr = .ignoredIndexPrefix .ix 0xFD
    ∧ (withBytes [0xDD, 0x00]).nextInstr = .ignoredIndexPrefix .ix 0x00 := by
  decide

theorem witness_StepAdvancesPcAndR :
    let s := withBytes [0xFD, 0xCB, 0x80, 0xFF]
    s.noSignal = true ∧ s.halted = false ∧ s.pendingIndex = none
      ∧ s.nextInstr = .setBIndIdxR .iy 0x80 7 .a ∧ setsPc s.nextInstr = false
      ∧ s.nextInstr ≠ .ldRefreshA := by
  decide

theorem witness_RedundantPrefixEndsTheStep :
    (let s := withBytes [0xDD, 0xFD];
      s.noSignal = true ∧ s.halted = false ∧ isIndexPrefix (s.streamByte 0) = true ∧ s.pendingIndex = none
        ∧ isIndexPrefix (s.streamByte 1) = true)
    ∧ (let s := { withBytes [0xFD] with pendingIndex := some .ix, intBlocked := true, nmiRequested := true };
      s.noSignal = true ∧ s.halted = false ∧ isIndexPrefix (s.streamByte 0) = true
        ∧ s.pendingIndex ≠ none) := by
  decide

theorem witness_EiShadowLastsOneStep :
    let s := withBytes [0xFB, 0x00]
    s.noSignal = true ∧ s.halted = false ∧ s.pendingIndex = none ∧ s.streamByte 0 = 0xFB := by
  decide

/-- The state after EI, with INT requested, meets the inner hypotheses: its next instruction is a NOP. -/
theorem witness_EiShadowLastsOneStep_inner :
    let t := { withBytes [0xFB, 0x00] with
      pc := 1, r := 1, iff1 := true, iff2 := true, intBlocked := true, tStates := 4, intRequested := true }
    t.runsInstr.1 ≠ .ei ∧ t.runsInstr.1 = .nop ∧ t.pendingIndex = none := by
  decide

theorem witness_ControlInstructions :
    isIndexPrefix 0x00 = false ∧ isIndexPrefix 0xDE = false ∧ isIndexPrefix 0xDD = true
    ∧ isIndexPrefix 0xFD = true := by
  decide

/-- Every condition holds of some F and fails of another. -/
theorem witness_CondTrue (cc : Cond) : (∃ f, CondTrue cc f) ∧ ∃ f, ¬CondTrue cc f := by
  cases cc <;> first
    | exact ⟨⟨0x00, rfl⟩, ⟨0xFF, fun h => nomatch h⟩⟩
    | exact ⟨⟨0xFF, rfl⟩, ⟨0x00, fun h => nomatch h⟩⟩

/-- B = 1 and B = 0 (DJNZ, the block inputs and outputs); BC = 1 and BC = 0 (the block transfers). -/
theorem witness_repeat_conditions :
    { State.reset with bc := 0x0100 }.reg .b = 1 ∧ State.reset.reg .b ≠ 1
    ∧ { State.reset with bc := 0x0001 }.bc = 1 ∧ State.reset.bc ≠ 1 := by
  decide

/-- A block search ends with BC = 1 or with the byte found, and goes on otherwise. -/
theorem witness_BlockSearches :
    (State.reset.bc ≠ 1 ∧ State.reset.a = State.reset.memAnswer 0 State.reset.hl)
    ∧ ¬({ State.reset with af := 0x0100 }.bc = 1
      ∨ { State.reset with af := 0x0100 }.a = { State.reset with af := 0x0100 }.memAnswer 0 0) := by
  decide

theorem witness_DaaCorrectsDecimalArithmetic (op : AluOp) :
    let s := { State.reset with af := 0x9901, bc := 0x9900 }
    IsAluForm op s (aluR op .b) 0x99 ∧ IsAluForm op s (aluN op 0x99) 0x99 ∧ IsAluForm op s (aluIndHl op) 0x00
      ∧ IsAluForm op s (aluIdxHalf op .ix .low) 0x00 ∧ IsAluForm op s (aluIndIdx op .iy 0xFF) 0x00
      ∧ isBcd s.a = true ∧ isBcd 0x99 = true ∧ isBcd 0x00 = true :=
  ⟨.inl ⟨.b, rfl, rfl⟩, .inr (.inr (.inl rfl)), .inr (.inl ⟨rfl, rfl⟩),
    .inr (.inr (.inr (.inl ⟨.ix, .low, rfl, rfl⟩))), .inr (.inr (.inr (.inr ⟨.iy, 0xFF, rfl, rfl⟩))),
    rfl, rfl, rfl⟩

theorem witness_PopUndoesPush : { State.reset with sp := 0x0001, bc := 0x1234 }.memIn = [] := by decide

/-- The carry differs where the operation does not read it, and agrees where it does. -/
theorem witness_ArithmeticIdentities :
    flagC 0x01 = flagC 0xFF ∧ (AluOp.add ≠ .adc ∧ AluOp.add ≠ .sbc) ∧ (RotOp.rlc ≠ .rl ∧ RotOp.rlc ≠ .rr)
    ∧ flagN 0x13 = flagN 0xFB ∧ flagH 0x13 = flagH 0xFB ∧ flagC 0x13 = flagC 0xFB := by
  decide

theorem witness_RotateRoundTrips :
    (RotOp.sla = .sla ∨ RotOp.sla = .sra ∨ RotOp.sla = .sll ∨ RotOp.sla = .srl)
    ∧ (RotOp.srl = .sla ∨ RotOp.srl = .sra ∨ RotOp.srl = .sll ∨ RotOp.srl = .srl) := by
  decide

/-- The three signals of the acknowledge clauses. -/
theorem witness_AcknowledgeOncePerService :
    { State.reset with resetRequested := true, intRequested := true }.takesReset = true
    ∧ { State.reset with nmiRequested := true }.takesNmi = true
    ∧ { State.reset with intRequested := true, iff1 := true }.takesInt = true
    ∧ State.reset.takesInt = false := by
  decide

theorem witness_MemoryReadsBackWhatWasWritten :
    State.reset.memIn = [] ∧ (0xFFFE : Word) ≠ 0xFFFF ∧ (0xFFFE : Word) ≠ 0xFFFF + 1 ∧ (0x0001 : Word) ≠ 0xFFFF + 1 := by
  decide

/-- The snapshot of the power-on state. -/
def powerOn : Snapshot := State.reset.capture

/-- At each bound: the last possible value is accepted, the first impossible one refused. -/
theorem witness_RestoreAcceptsExactlyThePossible :
    (∃ t, State.reset.restore { powerOn with im := 2, af := 65535, i := 255, iff1 := 1, halted := 1 } = .next t)
    ∧ (∃ t, State.reset.restore { powerOn with pendingIndex := some .iy, intBlocked := 1 } = .next t)
    ∧ State.reset.restore { powerOn with im := 3 } = .fault .invalidState
    ∧ State.reset.restore { powerOn with memptr := 65536 } = .fault .invalidState
    ∧ State.reset.restore { powerOn with r := 256 } = .fault .invalidState
    ∧ State.reset.restore { powerOn with iff2 := 2 } = .fault .invalidState
    ∧ State.reset.restore { powerOn with halted := 1, pendingIndex := some .ix } = .fault .invalidState :=
  ⟨⟨_, rfl⟩, ⟨_, rfl⟩, rfl, rfl, rfl, rfl, rfl⟩

theorem witness_MemptrReachesNothingElse :
    readsMemptr (.bitBIndIdx .ix 0x00 0 0) = false ∧ readsMemptr (.bitBIndHl 0) = true := by
  decide

/-- The one callback of an Operation that is an opcode fetch. -/
theorem witness_EveryInstructionPaysForItsCallbacks :
    ∃ t, exec (.ignoredIndexPrefix .ix 0xFD) State.reset = .next t ∧ t.bus = [.readFetch 0] :=
  ⟨_, rfl, rfl⟩

/-- A word of spec/opcode_table.json placed with `withFetchWord` is what the next step runs. -/
theorem test_withFetchWord :
    (match step (State.reset.withFetchWord 16 0x3E05) with | .next t => t.a == 0x05 | _ => false) = true
    ∧ (match step (State.reset.withFetchWord 32 0xDDCB00C6) with
        | .next t => t.byteAt 0 == 0xDD | _ => false) = true := by
  decide
end

/-! # The state family: what a fetched instruction looks like -/

namespace Sys2Proof.Machine
open Sys2Proof

/-- All that the step reads off an instruction beside its meaning: the number of its M1 fetches, whether its
opcode comes after a displacement, and whether the step goes on behind it (30_encoding.md R119, R122 to R124). -/
def fetchShape (i : Instr) : Nat × Bool × Bool := (m1Count i, isIdxCb i, goesOn i)

/-- The opcode of a base-table instruction holds its register operands, so the byte is split into its bits. -/
theorem decodeBase_fetchShape (op b1 b2 : Byte) : fetchShape (decodeBase op b1 b2) = (1, false, false) := by
  rw [byte_eq_fbyte op]
  cases flagS op <;> cases flagZ op <;> cases flagY op <;> cases flagH op <;> cases flagX op <;>
    cases flagPV op <;> cases flagN op <;> cases flagC op <;> rfl

theorem decodeCb_fetchShape (op : Byte) : fetchShape (decodeCb op) = (2, false, false) := by
  unfold decodeCb rotRInstr rotHlInstr
  repeat' split
  all_goals rfl

theorem decodeEd_fetchShape (op b2 b3 : Byte) : fetchShape (decodeEd op b2 b3) = (2, false, false) := by
  unfold decodeEd decodeEd1 decodeEd2
  repeat' split
  all_goals rfl

theorem decodeIdxCb_fetchShape (x : IdxReg) (d op : Byte) : fetchShape (decodeIdxCb x d op) = (2, true, false) := by
  unfold decodeIdxCb rotIdxInstr rotIdxRInstr
  cases x <;> repeat' split
  all_goals rfl

/-- The shape of an instruction of the DD/FD table is its opcode's alone. -/
theorem decodeIdx_fetchShape_eq (x : IdxReg) (op b2 b3 : Byte) :
    fetchShape (decodeIdx x op b2 b3) = fetchShape (decodeIdx .ix op 0 0) := by
  rw [byte_eq_fbyte op]
  cases x <;> cases flagS op <;> cases flagZ op <;> cases flagY op <;> cases flagH op <;> cases flagX op <;>
    cases flagPV op <;> cases flagN op <;> cases flagC op <;> rfl

/-- A cell of the DD/FD table that the prefix changes (R130). -/
theorem decodeIdx_fetchShape (x : IdxReg) (op b2 b3 : Byte) (h : indexAffected op = true) (hcb : op ≠ 0xCB) :
    fetchShape (decodeIdx x op b2 b3) = (2, false, false) := by
  have table : ∀ op : Byte, indexAffected op = true → op ≠ 0xCB →
      fetchShape (decodeIdx .ix op 0 0) = (2, false, false) := by decide +kernel
  rw [decodeIdx_fetchShape_eq, table op h hcb]

/-! ## The stream and the fetches -/

@[simp] theorem fetchM1_streamByte (s : State) (k : Nat) : s.fetchM1.streamByte k = s.streamByte (k + 1) := by
  have e : s.pc + 1 + BitVec.ofNat 16 k = s.pc + BitVec.ofNat 16 (k + 1) := by
    apply BitVec.eq_of_toNat_eq; simp; omega
  rw [State.streamByte, State.streamByte, fetchM1_memAnswer, fetchM1_pc, e]

@[simp] theorem imm8_streamByte (s : State) (k : Nat) : s.imm8.streamByte k = s.streamByte (k + 1) :=
  fetchM1_streamByte s k

/-- The read at PC answers the first byte of the stream. -/
theorem memRead_pc_fst (s : State) : (s.memRead s.pc).1 = s.streamByte 0 := by
  rw [memRead_fst, State.streamByte, BitVec.add_zero]

theorem decodeBytes_cb (b1 b2 b3 : Byte) : decodeBytes 0xCB b1 b2 b3 = decodeCb b1 := rfl

theorem decodeBytes_ed (b1 b2 b3 : Byte) : decodeBytes 0xED b1 b2 b3 = decodeEd b1 b2 b3 := rfl

theorem decodeBytes_prefixByte (x : IdxReg) (b1 b2 b3 : Byte) :
    decodeBytes x.prefixByte b1 b2 b3 = decodePrefixed x b1 b2 b3 := by
  cases x <;> rfl

theorem isIndexPrefix_iff (b : Byte) : isIndexPrefix b = true ↔ b = (prefixIdx b).prefixByte := by
  revert b; decide +kernel

theorem decodeBytes_base (b0 b1 b2 b3 : Byte) (hcb : b0 ≠ 0xCB) (hed : b0 ≠ 0xED)
    (hp : isIndexPrefix b0 = false) : decodeBytes b0 b1 b2 b3 = decodeBase b0 b1 b2 := by
  simp only [isIndexPrefix, Bool.or_eq_false_iff, beq_eq_false_iff_ne] at hp
  rw [decodeBytes, if_neg hcb, if_neg hed, if_neg hp.1, if_neg hp.2]

/-- Without an index prefix there is one M1 fetch, and one more behind 0xCB and 0xED (R122, R124). -/
theorem decodeBytes_fetchShape (b0 b1 b2 b3 : Byte) (hp : isIndexPrefix b0 = false) :
    fetchShape (decodeBytes b0 b1 b2 b3) = (if b0 = 0xCB ∨ b0 = 0xED then 2 else 1, false, false) := by
  by_cases hcb : b0 = 0xCB
  · rw [hcb, decodeBytes_cb, decodeCb_fetchShape]; rfl
  by_cases hed : b0 = 0xED
  · rw [hed, decodeBytes_ed, decodeEd_fetchShape]; rfl
  · rw [decodeBytes_base _ _ _ _ hcb hed hp, decodeBase_fetchShape, if_neg (not_or.2 ⟨hcb, hed⟩)]

/-- Opcodes that no index prefix changes. -/
theorem indexAffected_of_isIndexPrefix : ∀ b : Byte, isIndexPrefix b = true → indexAffected b = false := by
  decide +kernel

end Sys2Proof.Machine

/-! # The step as the algorithm of R119 -/

namespace Sys2Proof.Machine
open Sys2Proof

theorem encode_ne_nil (i : Instr) : encode i ≠ [] := by
  cases i <;> exact List.cons_ne_nil _ _

theorem m1Count_pos (i : Instr) : 0 < m1Count i := by
  unfold m1Count
  split
  · exact Nat.one_pos
  · split
    · split <;> decide
    · next h => exact absurd h (encode_ne_nil _)

/-! ## Fetching with and without a pending prefix -/

/-- The state with PENDING_INDEX set. -/
def State.withPending (s : State) (x : Option IdxReg) : State := { s with pendingIndex := x }

theorem withPending_self {s : State} {x : Option IdxReg} (h : s.pendingIndex = x) : s.withPending x = s := by
  subst h; rfl

@[simp] theorem withPending_withPending (s : State) (x y : Option IdxReg) :
    (s.withPending x).withPending y = s.withPending y := rfl

@[simp] theorem withPending_pendingIndex (s : State) (x : Option IdxReg) : (s.withPending x).pendingIndex = x := rfl

@[simp] theorem withPending_streamByte (s : State) (x : Option IdxReg) (k : Nat) :
    (s.withPending x).streamByte k = s.streamByte k := rfl

/-- What follows the prefix and 0xCB of the DD/FD+CB table: the displacement, and the opcode by an ordinary
read (30_encoding.md R123). -/
def State.fetchDisplaced (s : State) : State :=
  let s1 := s.imm8
  let s2 := (s1.memRead s1.pc).2.idle s1.pc 2
  { s2 with pc := s2.pc + 1 }

theorem fetchInstr_eq {s : State} {i : Instr} {n : Nat} {cb g : Bool} (h : fetchShape i = (n, cb, g)) :
    s.fetchInstr i =
      let s1 := (s.withPending none).fetchM1s (n - if s.pendingIndex.isSome then 1 else 0)
      if cb then s1.fetchDisplaced else s1 := by
  obtain ⟨rfl, rfl, -⟩ := by simpa only [fetchShape, Prod.mk.injEq] using h
  rfl

/-- Fetching with no prefix pending. -/
theorem fetchInstr_unpended {s : State} {i : Instr} {n : Nat} {cb g : Bool} (hp : s.pendingIndex = none)
    (h : fetchShape i = (n, cb, g)) :
    s.fetchInstr i = if cb then (s.fetchM1s n).fetchDisplaced else s.fetchM1s n := by
  simp [fetchInstr_eq h, hp, withPending_self]

/-- The pending prefix is one of the M1 fetches, already made. -/
theorem fetchInstr_pended {i : Instr} {n : Nat} {cb g : Bool} (s : State) (x : IdxReg)
    (hp : s.pendingIndex = none) (h : fetchShape i = (n + 1, cb, g)) :
    (s.withPending (some x)).fetchInstr i = if cb then (s.fetchM1s n).fetchDisplaced else s.fetchM1s n := by
  simp [fetchInstr_eq h, hp, withPending_self]

/-- An ignored prefix is fetched alone (R118 item 4). -/
theorem ignoredIndexPrefix_fetchShape (x : IdxReg) (op : Byte) (ha : indexAffected op = false) :
    fetchShape (.ignoredIndexPrefix x op) = (1, false, !isIndexPrefix op) := by
  have hcb : (op == 0xCB) = false := beq_eq_false_iff_ne.2 fun h => by rw [h] at ha; exact absurd ha (by decide)
  simp only [fetchShape, m1Count, isIdxCb, encode, hcb, Bool.and_false, goesOn]

theorem fetchInstr_ignored (s : State) (x : IdxReg) (op : Byte) (hp : s.pendingIndex = none)
    (ha : indexAffected op = false) : (s.withPending (some x)).fetchInstr (.ignoredIndexPrefix x op) = s :=
  fetchInstr_pended s x hp (ignoredIndexPrefix_fetchShape x op ha)

theorem nextInstr_unpended {s : State} (hp : s.pendingIndex = none) :
    s.nextInstr = decodeBytes (s.streamByte 0) (s.streamByte 1) (s.streamByte 2) (s.streamByte 3) := by
  rw [State.nextInstr, hp]

theorem nextInstr_pended (s : State) (x : IdxReg) :
    (s.withPending (some x)).nextInstr = decodePrefixed x (s.streamByte 0) (s.streamByte 1) (s.streamByte 2) :=
  decodeBytes_prefixByte x _ _ _

/-- A prefix byte at PC is the same as that prefix fetched and pending. -/
theorem runNext_prefixByte {s : State} {x : IdxReg} (run : Instr → State → Host.Outcome State Fault Refusal)
    (hp : s.pendingIndex = none) (hx : s.streamByte 0 = x.prefixByte) :
    s.runNext run = (s.fetchM1.withPending (some x)).runNext run := by
  have hi : (s.fetchM1.withPending (some x)).nextInstr = s.nextInstr := by
    simp [nextInstr_pended, nextInstr_unpended hp, hx, decodeBytes_prefixByte]
  have hf : ∀ i, (s.fetchM1.withPending (some x)).fetchInstr i = s.fetchInstr i := fun i => by
    obtain ⟨n, hn⟩ := Nat.exists_eq_succ_of_ne_zero (m1Count_pos i).ne'
    have h : fetchShape i = (n + 1, isIdxCb i, goesOn i) := by rw [fetchShape, hn]
    rw [fetchInstr_pended s.fetchM1 x hp h, fetchInstr_unpended hp h, State.fetchM1s]
  simp only [State.runNext, hi, hf]

/-! ## One instruction, as R119 dispatches it -/

/-- The dispatch by the opcode just fetched, no index prefix before it. -/
theorem runNext_unprefixed (s : State) (hp : s.pendingIndex = none)
    (h : isIndexPrefix (s.streamByte 0) = false) :
    s.runNext exec = stepExecute none (s.streamByte 0) s.fetchM1 := by
  have hs := decodeBytes_fetchShape (s.streamByte 0) (s.streamByte 1) (s.streamByte 2) (s.streamByte 3) h
  rw [← nextInstr_unpended hp] at hs
  rw [runNext_stops s (congrArg (·.2.2) hs), fetchInstr_unpended hp hs, nextInstr_unpended hp, stepExecute]
  simp only [fetchM1_streamByte, Bool.false_eq_true, if_false]
  by_cases hcb : s.streamByte 0 = 0xCB
  · rw [hcb]; rfl
  by_cases hed : s.streamByte 0 = 0xED
  · rw [hed]; rfl
  · rw [decodeBytes_base _ _ _ _ hcb hed h, if_neg hcb, if_neg hed, if_neg (not_or.2 ⟨hcb, hed⟩)]
    rfl

/-- Before an opcode it does not change, a pending prefix is as if it were not there (R118 item 4). -/
theorem runNext_ignored (s : State) (x : IdxReg) (hp : s.pendingIndex = none)
    (hi : isIndexPrefix (s.streamByte 0) = false) (ha : indexAffected (s.streamByte 0) = false) :
    (s.withPending (some x)).runNext exec = s.runNext exec := by
  have hn : (s.withPending (some x)).nextInstr = .ignoredIndexPrefix x (s.streamByte 0) := by
    rw [nextInstr_pended, decodePrefixed_unaffected _ _ _ _ ha]
  have hg : goesOn (s.withPending (some x)).nextInstr = true := by rw [hn]; simp [goesOn, hi]
  have hs := decodeBytes_fetchShape (s.streamByte 0) (s.streamByte 1) (s.streamByte 2) (s.streamByte 3) hi
  rw [← nextInstr_unpended hp] at hs
  rw [runNext_goesOn _ hg, runNext_stops s (congrArg (·.2.2) hs), hn,
    fetchInstr_ignored s x _ hp ha]

/-- Before another index prefix, a pending one is redundant and the step ends (R121). -/
theorem runNext_redundant (s : State) (x : IdxReg) (hp : s.pendingIndex = none)
    (hi : isIndexPrefix (s.streamByte 0) = true) :
    (s.withPending (some x)).runNext exec = .next (s.redundantPrefix (s.streamByte 0)) := by
  have ha := indexAffected_of_isIndexPrefix _ hi
  have hn : (s.withPending (some x)).nextInstr = .ignoredIndexPrefix x (s.streamByte 0) := by
    rw [nextInstr_pended, decodePrefixed_unaffected _ _ _ _ ha]
  rw [runNext_stops _ (by rw [hn]; simp [goesOn, hi]), hn, fetchInstr_ignored s x _ hp ha]
  simp [exec, execIgnoredIndexPrefix, hi]

/-- The dispatch by the opcode just fetched, behind an index prefix. -/
theorem runNext_pended (s : State) (x : IdxReg) (hp : s.pendingIndex = none)
    (hi : isIndexPrefix (s.streamByte 0) = false) :
    (s.withPending (some x)).runNext exec = stepExecute (some x) (s.streamByte 0) s.fetchM1 := by
  have hn := nextInstr_pended s x
  by_cases ha : indexAffected (s.streamByte 0) = true
  · by_cases hcb : s.streamByte 0 = 0xCB
    · rw [decodePrefixed, if_pos hcb] at hn
      have hs := decodeIdxCb_fetchShape x (s.streamByte 1) (s.streamByte 2)
      rw [runNext_stops _ (by rw [hn]; exact congrArg (·.2.2) hs), hn, fetchInstr_pended s x hp hs, if_pos rfl,
        stepExecute, if_pos hcb]
      simp only [fetchM1_streamByte, memRead_pc_fst, imm8_streamByte]
      rfl
    · rw [decodePrefixed, if_neg hcb] at hn
      have hs := decodeIdx_fetchShape x _ (s.streamByte 1) (s.streamByte 2) ha hcb
      have hed : s.streamByte 0 ≠ 0xED := fun h => by rw [h] at ha; exact absurd ha (by decide)
      rw [runNext_stops _ (by rw [hn]; exact congrArg (·.2.2) hs), hn, fetchInstr_pended s x hp hs]
      simp only [stepExecute, hcb, hed, ha, if_true, if_false, fetchM1_streamByte]
      rfl
  · rw [Bool.not_eq_true] at ha
    have hcb : s.streamByte 0 ≠ 0xCB := fun h => by rw [h] at ha; exact absurd ha (by decide)
    rw [runNext_ignored s x hp hi ha, runNext_unprefixed s hp hi]
    simp only [stepExecute, hcb, ha, if_false, Bool.false_eq_true]

/-! ## The whole step -/

/-- The last lines of R119, from the first fetch on: the loop over index prefixes and the dispatch. -/
def State.fetchLoop (s : State) : Host.Outcome State Fault Refusal :=
  let u := s.withPending none
  if isIndexPrefix (u.streamByte 0) then
    match s.pendingIndex with
    | some _ => .next (u.redundantPrefix (u.streamByte 0))
    | none =>
      let v := u.fetchM1
      if isIndexPrefix (v.streamByte 0) then .next (v.redundantPrefix (v.streamByte 0))
      else stepExecute (some (prefixIdx (u.streamByte 0))) (v.streamByte 0) v.fetchM1
  else stepExecute s.pendingIndex (u.streamByte 0) u.fetchM1

theorem stepAlgorithm_eq (s : State) :
    stepAlgorithm s =
      if s.resetRequested = true then .next s.serviceReset
      else if s.nmiRequested = true ∧ s.pendingIndex = none then .next s.serviceNmi
      else if s.intRequested = true ∧ s.iff1 = true ∧ s.intBlocked = false then .next s.serviceInt
      else if s.halted = true then .next { s with intBlocked := false }.haltedCycle
      else { s with intBlocked := false }.fetchLoop := rfl

theorem runNext_eq_fetchLoop (s : State) : s.runNext exec = s.fetchLoop := by
  rcases hp : s.pendingIndex with _ | x
  · have hv : s.fetchM1.pendingIndex = none := hp
    simp only [State.fetchLoop, hp, withPending_self hp]
    split
    · next hi =>
      rw [runNext_prefixByte exec hp ((isIndexPrefix_iff _).1 hi)]
      split
      · next h => exact runNext_redundant _ _ hv h
      · next h => exact runNext_pended _ _ hv (by simpa using h)
    · next hi => exact runNext_unprefixed s hp (by simpa using hi)
  · have hs : (s.withPending none).withPending (some x) = s := withPending_self hp
    simp only [State.fetchLoop, hp]
    split
    · next hi => exact hs ▸ runNext_redundant (s.withPending none) x rfl hi
    · next hi => exact hs ▸ runNext_pended (s.withPending none) x rfl (by simpa using hi)

/-- Wherever INT_BLOCKED goes with a pending prefix, the INT line of R119 is that of the step. -/
theorem step_eq_stepAlgorithm (s : State) (h : s.pendingIndex = none ∨ s.intBlocked = true) :
    step s = stepAlgorithm s := by
  have hint : (s.intRequested && s.iff1 && !s.intBlocked && s.pendingIndex.isNone) = true
      ↔ s.intRequested = true ∧ s.iff1 = true ∧ s.intBlocked = false := by
    rcases h with h | h <;> simp [h, and_assoc]
  simp only [step, State.stepWith, stepAlgorithm_eq, hint, Bool.and_eq_true, Option.isNone_iff_eq_none,
    runNext_eq_fetchLoop]

/-- With a prefix pending a step does not look at INT_BLOCKED (10_state.md R46, 90_conflicts.md C4). -/
theorem step_setIntBlocked (s : State) (h : s.pendingIndex ≠ none) :
    step { s with intBlocked := true } = step s := by
  obtain ⟨x, hx⟩ := Option.ne_none_iff_exists'.1 h
  simp only [step, State.stepWith, hx, Option.isNone_some, Bool.and_false, Bool.false_eq_true, if_false]
  rfl

end Sys2Proof.Machine

section
open Sys2Proof Sys2Proof.Machine

/-- Settles O5: the dispatch of the decoded instruction is R119's, table by table; with a prefix pending the
step does not look at INT_BLOCKED, so the second clause is the first on the state with INT_BLOCKED set. -/
theorem stepFollowsTheAlgorithm : Obligations.StepFollowsTheAlgorithm := by
  unfold Obligations.StepFollowsTheAlgorithm
  intro s
  refine ⟨step_eq_stepAlgorithm s, fun h => ?_⟩
  rw [← step_setIntBlocked s h]
  exact step_eq_stepAlgorithm _ (.inr rfl)

/-- Settles O14: at reset there is nothing in memory, no prefix is pending and IFF1 is 0. -/
theorem invariantHoldsAtReset : Obligations.InvariantHoldsAtReset := by
  unfold Obligations.InvariantHoldsAtReset
  exact ⟨rfl, nofun, nofun, nofun⟩

/-- Settles O57, field by field. -/
theorem powerOnValues : Obligations.PowerOnValues := by
  unfold Obligations.PowerOnValues
  exact ⟨rfl, rfl, rfl, rfl⟩

end

/-! # Cycles and services of one step -/

namespace Sys2Proof.Machine
open Sys2Proof

/-- The state with INT_BLOCKED cleared, in which the step goes on behind the signal check (R119). -/
def State.unblocked (s : State) : State := { s with intBlocked := false }

theorem unblocked_frame (s : State) : Frame [.intBlocked] [] s s.unblocked :=
  ⟨fun p hp => by cases p <;> simp_all [Part.same, State.unblocked] <;> rfl, fun _ _ => rfl⟩

theorem haltedCycle_spec (s : State) :
    s.haltedCycle.r = refreshInc s.r ∧ Issued [.readFetch s.pc] s s.haltedCycle
      ∧ Frame [.refresh] [] s s.haltedCycle :=
  ⟨rfl, ⟨rfl, rfl, rfl⟩, fun p hp => by cases p <;> simp_all [Part.same, State.haltedCycle] <;> rfl, fun _ _ => rfl⟩

/-- What a redundant prefix does: its own fetch, and the two parts it sets (R121). -/
theorem redundantPrefix_spec (s : State) (op : Byte) :
    let t := s.redundantPrefix op
    t.pc = s.pc + 1 ∧ t.r = refreshInc s.r ∧ t.intBlocked = true ∧ t.pendingIndex = some (prefixIdx op)
      ∧ Issued [.readFetch s.pc] s t ∧ Frame [.pc, .refresh, .intBlocked, .pendingIndex] [] s t :=
  ⟨rfl, rfl, rfl, rfl, ⟨rfl, rfl, rfl⟩,
    fun p hp => by cases p <;> simp_all [Part.same, State.redundantPrefix] <;> rfl, fun _ _ => rfl⟩

theorem runNext_twoPrefixes {s : State} (hp : s.pendingIndex = none) (h0 : isIndexPrefix (s.streamByte 0) = true)
    (h1 : isIndexPrefix (s.streamByte 1) = true) :
    s.runNext exec = .next (s.fetchM1.redundantPrefix (s.streamByte 1)) := by
  simp [runNext_eq_fetchLoop, State.fetchLoop, hp, withPending_self hp, h0, h1]

theorem runNext_pendedPrefix {s : State} (hp : s.pendingIndex ≠ none) (h0 : isIndexPrefix (s.streamByte 0) = true) :
    s.runNext exec = .next (s.redundantPrefix (s.streamByte 0)) := by
  obtain ⟨x, hx⟩ := Option.ne_none_iff_exists'.1 hp
  have h := runNext_redundant (s.withPending none) x rfl h0
  rwa [withPending_withPending, withPending_self hx] at h

/-- With a prefix pending neither NMI nor INT is serviced (R46). -/
theorem takes_of_pending {s : State} {x : IdxReg} (h : s.pendingIndex = some x) :
    s.takesNmi = false ∧ s.takesInt = false := by
  simp [State.takesNmi, State.takesInt, h]

theorem clearIffs_frame (s : State) : Frame [.iff1, .iff2] [] s { s with iff1 := false, iff2 := false } :=
  ⟨fun p hp => by cases p <;> simp_all [Part.same] <;> rfl, fun _ _ => rfl⟩

/-- The service of an INT in mode 2: the acknowledge and the push, then the word at I : DataBus (R543). -/
theorem serviceInt_im2 (s : State) (h : s.im = .im2) :
    let u := { s with iff1 := false, iff2 := false }.enterInterrupt .ackInt 7
    s.serviceInt = (u.memRead16 (join s.i s.dataBus)).2.goTo (u.wordAnswer 0 (join s.i s.dataBus)) := by
  intro u
  obtain ⟨-, -, -, -, -, -, -, hf⟩ := enterInterrupt_spec { s with iff1 := false, iff2 := false } .ackInt 7
  have hv : u.intVector = u.memRead16 (join s.i s.dataBus) := by
    have him : u.im = .im2 := (hf.1 .im (by simp)).trans h
    have hi : u.i = s.i := hf.1 .vector (by simp)
    obtain ⟨-, -, -, hd⟩ : Part.inputs.same _ u := hf.1 .inputs (by simp)
    rw [State.intVector, him, hi, hd]
  rw [State.serviceInt, hv, (memRead16_spec u _).1]

/-- The word memory reads answer depends on memory and the answers named alone. -/
theorem wordAnswer_congr {s t : State} (hm : ∀ a, t.byteAt a = s.byteAt a) (hi : t.memIn = s.memIn) (k : Nat)
    (a : Word) : t.wordAnswer k a = s.wordAnswer k a := by
  simp only [State.wordAnswer, State.memAnswer, hm, hi]

/-! ## Snapshots -/

theorem imNumber_of_imOfNumber {k : Nat} {m : IntMode} (h : imOfNumber k = some m) : imNumber m = k := by
  unfold imOfNumber at h
  split at h <;> cases h <;> rfl

theorem imOfNumber_eq_none_iff (k : Nat) : imOfNumber k = none ↔ 2 < k := by
  match k with
  | 0 | 1 | 2 => decide
  | k + 3 => simp [imOfNumber]

theorem fits_iff (n : Snapshot) : n.fits = true ↔
    (∀ v ∈ [n.af, n.bc, n.de, n.hl, n.afAlt, n.bcAlt, n.deAlt, n.hlAlt, n.ix, n.iy, n.sp, n.pc, n.memptr],
      v < 2 ^ 16)
    ∧ n.i < 2 ^ 8 ∧ n.r < 2 ^ 8 ∧ n.iff1 < 2 ∧ n.iff2 < 2 ∧ n.halted < 2 ∧ n.intBlocked < 2 := by
  simp only [Snapshot.fits, Bool.and_eq_true, List.all_eq_true, decide_eq_true_eq, List.forall_mem_cons,
    List.not_mem_nil, false_imp_iff, imp_true_iff, and_true, and_assoc]
  rfl

theorem beq_one_toNat {k : Nat} (h : k < 2) : (k == 1).toNat = k := by
  interval_cases k <;> rfl

/-- The register file written as `State.restore` writes it. -/
def State.load (s : State) (n : Snapshot) (im : IntMode) : State :=
  { s with
    af := BitVec.ofNat 16 n.af
    bc := BitVec.ofNat 16 n.bc
    de := BitVec.ofNat 16 n.de
    hl := BitVec.ofNat 16 n.hl
    afAlt := BitVec.ofNat 16 n.afAlt
    bcAlt := BitVec.ofNat 16 n.bcAlt
    deAlt := BitVec.ofNat 16 n.deAlt
    hlAlt := BitVec.ofNat 16 n.hlAlt
    ix := BitVec.ofNat 16 n.ix
    iy := BitVec.ofNat 16 n.iy
    sp := BitVec.ofNat 16 n.sp
    pc := BitVec.ofNat 16 n.pc
    i := BitVec.ofNat 8 n.i
    r := BitVec.ofNat 8 n.r
    memptr := BitVec.ofNat 16 n.memptr
    iff1 := n.iff1 == 1
    iff2 := n.iff2 == 1
    im := im
    halted := n.halted == 1
    intBlocked := n.intBlocked == 1
    pendingIndex := n.pendingIndex
    tStates := n.tStates }

theorem restore_eq (s : State) (n : Snapshot) {im : IntMode} (h : imOfNumber n.im = some im) :
    s.restore n = if n.fits && !(n.halted == 1 && n.pendingIndex.isSome) then .next (s.load n im)
      else .fault .invalidState := by
  rw [State.restore, h]
  rfl

theorem load_capture (s : State) (n : Snapshot) {im : IntMode} (h : imOfNumber n.im = some im)
    (hf : n.fits = true) : (s.load n im).capture = n := by
  obtain ⟨hw, hi, hr, h1, h2, hh, hb⟩ := (fits_iff n).1 hf
  simp only [List.forall_mem_cons, List.not_mem_nil, false_imp_iff, imp_true_iff, and_true] at hw
  simp only [State.capture, State.load, BitVec.toNat_ofNat, Nat.mod_eq_of_lt, beq_one_toNat,
    imNumber_of_imOfNumber h, hw, hi, hr, h1, h2, hh, hb]

end Sys2Proof.Machine

section
open Sys2Proof Sys2Proof.Machine

/-- Settles O10: the step clears INT_BLOCKED and makes one halted cycle. -/
theorem haltedCycleEffect : Obligations.HaltedCycleEffect := by
  unfold Obligations.HaltedCycleEffect
  intro s hh hs
  obtain ⟨hr, hi, hf⟩ := haltedCycle_spec s.unblocked
  exact ⟨_, step_halted s hs hh, hh, hr, rfl, hi, ((unblocked_frame s).trans hf).mono (by simp) (by simp)⟩

/-- Settles O20: a first prefix fetched is the same as that prefix pending, and behind a pending one the
second is redundant. -/
theorem redundantPrefixEndsTheStep : Obligations.RedundantPrefixEndsTheStep := by
  unfold Obligations.RedundantPrefixEndsTheStep
  intro s hs hh h0
  have hb := unblocked_frame s
  constructor
  · intro hp h1
    obtain ⟨-, -, hi, hf⟩ := fetchM1_spec s.unblocked
    obtain ⟨hpc, hr, hib, hpend, hi', hf'⟩ := redundantPrefix_spec s.unblocked.fetchM1 (s.streamByte 1)
    obtain ⟨hn, ht⟩ := takes_of_pending hpend
    exact ⟨_, (step_runs s hs hh).trans (runNext_twoPrefixes (s := s.unblocked) hp h0 h1), hi.trans hi',
      hpc.trans (word_add_one_add_one _), hr, hib, hpend, hn, ht,
      ((hb.trans hf).trans hf').mono (by simp) (by simp)⟩
  · intro hp
    obtain ⟨hpc, hr, hib, hpend, hi, hf⟩ := redundantPrefix_spec s.unblocked (s.streamByte 0)
    obtain ⟨hn, ht⟩ := takes_of_pending hpend
    exact ⟨_, (step_runs s hs hh).trans (runNext_pendedPrefix (s := s.unblocked) hp h0), hi, hpc, hr, hib, hpend,
      hn, ht, (hb.trans hf).mono (by simp) (by simp)⟩

/-- Settles O9: the acknowledge and the push of `enterInterrupt`, then the two reads of the vector, which
answer what they would in the end, since they store nothing. -/
theorem intServiceMode2Effect : Obligations.IntServiceMode2Effect := by
  unfold Obligations.IntServiceMode2Effect
  intro s hs him
  have hc := clearIffs_frame s
  have ht := serviceInt_im2 s him
  obtain ⟨hbus, hT, hin, -, hr, hhalt, hpush, hf⟩ :=
    enterInterrupt_spec { s with iff1 := false, iff2 := false } .ackInt 7
  generalize ({ s with iff1 := false, iff2 := false } : State).enterInterrupt .ackInt 7 = u at *
  obtain ⟨-, hi, hfv⟩ := memRead16_spec u (join s.i s.dataBus)
  obtain ⟨hpc, hmp, hi', hfg⟩ := goTo_spec (u.memRead16 (join s.i s.dataBus)).2 (u.wordAnswer 0 (join s.i s.dataBus))
  rw [← ht] at hpc hmp hi' hfg
  have hend := hi.trans hi'
  have hu := hfv.trans hfg
  have hmem : ∀ a, s.serviceInt.byteAt a = u.byteAt a := fun a => hu.2 a (by simp)
  obtain ⟨hsp, hhi, hlo⟩ := hpush
  refine ⟨_, step_int s hs, ?_, hmp.trans hpc.symm, (hu.1 .iff1 (by simp)).trans (hf.1 .iff1 (by simp)),
    (hu.1 .iff2 (by simp)).trans (hf.1 .iff2 (by simp)), (hu.1 .halted (by simp)).trans hhalt,
    (hu.1 .refresh (by simp)).trans hr, ⟨(hu.1 .sp (by simp)).trans hsp, (hmem _).trans hhi, (hmem _).trans hlo⟩,
    ?_, ?_, ?_, ((hc.trans hf).trans hu).mono (by simp) (by simp)⟩
  · exact hpc.trans (wordAnswer_congr (s := { s.serviceInt with memIn := s.memIn }) (fun a => (hmem a).symm) hin 0 _)
  · rw [hend.2.1, hT]; rfl
  · rw [hend.2.2, hin]; rfl
  · rw [hend.1, hbus]; rfl

/-- Settles O56: the three tests of a restore are those of the statement, and what it writes reads back, since
each value fits its field. -/
theorem restoreAcceptsExactlyThePossible : Obligations.RestoreAcceptsExactlyThePossible := by
  unfold Obligations.RestoreAcceptsExactlyThePossible
  intro s n possible
  have hpos : possible ↔ ¬ 2 < n.im ∧ (n.fits && !(n.halted == 1 && n.pendingIndex.isSome)) = true := by
    have hp : (!(n.halted == 1 && n.pendingIndex.isSome)) = true ↔ ¬(n.halted = 1 ∧ n.pendingIndex ≠ none) := by
      simp [imp_iff_not_or]
    rw [Bool.and_eq_true, fits_iff, hp, Nat.not_lt]
    simp only [possible, and_assoc]
  rcases him : imOfNumber n.im with _ | im
  · have hle := (imOfNumber_eq_none_iff _).1 him
    exact ⟨fun _ => by rw [State.restore, him], fun h => absurd hle (hpos.1 h).1⟩
  · have hle : ¬ 2 < n.im := by rw [← imOfNumber_eq_none_iff, him]; exact nofun
    rw [restore_eq s n him]
    refine ⟨fun h => if_neg fun k => h (hpos.2 ⟨hle, k⟩), fun h => ?_⟩
    have hk := (hpos.1 h).2
    exact ⟨_, if_pos hk, load_capture s n him (Bool.and_eq_true_iff.1 hk).1, rfl, rfl, rfl, rfl, rfl, rfl, rfl, rfl,
      rfl⟩

end

namespace Sys2Proof.Machine
open Sys2Proof

/-! # What the Operation of an instruction can do -/

/-- The callbacks an Operation issues: operand and data reads, stores, ports, idle T-states (20_memory.md
R82). -/
def isDataCall : BusCall → Bool
  | .readMem _ | .writeMem _ _ | .readPort _ | .writePort _ _ | .noRequestMem _ => true
  | _ => false

/-- The parts of the state that only a few instructions write: the shadow set, I, R, the interrupt state, and
the inputs, which none writes. -/
def State.kept (s : State) :=
  (s.afAlt, s.bcAlt, s.deAlt, s.hlAlt, s.i, s.r, s.iff1, s.iff2, s.im, s.halted, s.intBlocked,
    s.pendingIndex, s.resetRequested, s.nmiRequested, s.intRequested, s.dataBus)

/-- The parts of the state that a callback changes. -/
def State.hostSide (s : State) := (s.bus, s.tStates, s.memIn, s.mem)

/-- Whether the Operation writes a part listed in `State.kept`. -/
def writesKept : Instr → Bool
  | .halt | .di | .ei | .imZero _ | .imOne _ | .imTwo _ | .exAfAf | .exx | .ldVectorA | .ldRefreshA
  | .reti | .retn _ => true
  | _ => false

/-- How many operand bytes the Operation reads at PC. -/
def operandBytes : Instr → Nat
  | .ldDdNn _ _ | .ldIndNnHl _ | .ldHlIndNn _ | .ldIndNnA _ | .ldAIndNn _ | .jpCcNn _ _ | .jpNn _
  | .callCcNn _ _ | .callNn _ | .ldIndNnDd _ _ | .ldDdIndNn _ _ | .ldIdxNn _ _ | .ldIndNnIdx _ _
  | .ldIdxIndNn _ _ | .ldIndIdxN _ _ _ => 2
  | .ldRN _ _ | .ldIndHlN _ | .djnz _ | .jr _ | .jrCc _ _ | .addAN _ | .adcAN _ | .subN _ | .sbcAN _
  | .andN _ | .xorN _ | .orN _ | .cpN _ | .outIndNA _ | .inAIndN _ | .ldIdxHalfN _ _ _ | .incIndIdx _ _
  | .decIndIdx _ _ | .ldRIndIdx _ _ _ | .ldIndIdxR _ _ _ | .addAIndIdx _ _ | .adcAIndIdx _ _
  | .subIndIdx _ _ | .sbcAIndIdx _ _ | .andIndIdx _ _ | .xorIndIdx _ _ | .orIndIdx _ _
  | .cpIndIdx _ _ => 1
  | _ => 0

/-- How far the Operation moves PC, if it only reads its operand there. -/
def pcAdvance (i : Instr) : Option Nat := if setsPc i then none else some (operandBytes i)

/-- A run of an Operation: it issues data callbacks and pays for them, keeps memory canonical, moves PC by
`adv` if that is given, and unless `wr` leaves `State.kept` alone. -/
structure Runs (adv : Option Nat) (wr : Bool) (s t : State) : Prop where
  issued : ∃ calls, Issued calls s t ∧ ∀ c ∈ calls, isDataCall c = true
  wf : s.mem.wf = true → t.mem.wf = true
  kept : wr = false → t.kept = s.kept
  pc : ∀ n, adv = some n → t.pc = s.pc + BitVec.ofNat 16 n

namespace Runs

variable {adv : Option Nat} {wr : Bool} {s t : State}

theorem refl (s : State) : Runs (some 0) wr s s :=
  ⟨⟨[], Issued.refl s, nofun⟩, id, fun _ => rfl, fun n h => by cases h; exact (BitVec.add_zero s.pc).symm⟩

/-- One more primitive that issues data callbacks, PC and `State.kept` untouched. -/
theorem callsTo (h : Runs adv wr s t) {u : State} {calls : List BusCall} (hi : Issued calls t u)
    (hc : ∀ c ∈ calls, isDataCall c = true) (hm : t.mem.wf = true → u.mem.wf = true) (hk : u.kept = t.kept)
    (hp : u.pc = t.pc) : Runs adv wr s u := by
  obtain ⟨cs, hcs, hd⟩ := h.issued
  refine ⟨⟨cs ++ calls, hcs.trans hi, fun c hcm => ?_⟩, hm ∘ h.wf, fun w => hk.trans (h.kept w),
    fun n hn => hp.trans (h.pc n hn)⟩
  rcases List.mem_append.1 hcm with hcm | hcm
  · exact hd c hcm
  · exact hc c hcm

/-- An update of registers that are not in `State.kept`. -/
theorem update (h : Runs adv wr s t) {u : State} (hb : u.hostSide = t.hostSide) (hk : u.kept = t.kept)
    (hp : u.pc = t.pc) : Runs adv wr s u := by
  simp only [State.hostSide, Prod.mk.injEq] at hb
  obtain ⟨hbus, hT, hin, hmem⟩ := hb
  exact h.callsTo (calls := []) ⟨hbus, hT, hin⟩ nofun (hmem ▸ id) hk hp

/-- An update of PC. -/
theorem jump (h : Runs adv wr s t) {u : State} (hb : u.hostSide = t.hostSide) (hk : u.kept = t.kept) :
    Runs none wr s u :=
  have hu : Runs adv wr s { u with pc := t.pc } := h.update hb hk rfl
  ⟨hu.issued, hu.wf, hu.kept, nofun⟩

/-- An update of a part in `State.kept`. -/
theorem writeKept (h : Runs adv true s t) {u : State} (hb : u.hostSide = t.hostSide) (hp : u.pc = t.pc) :
    Runs adv true s u := by
  simp only [State.hostSide, Prod.mk.injEq] at hb
  obtain ⟨hbus, hT, hin, hmem⟩ := hb
  obtain ⟨cs, hcs, hd⟩ := h.issued
  exact ⟨⟨cs, ⟨hbus.trans hcs.1, hT.trans hcs.2.1, hin.trans hcs.2.2⟩, hd⟩, fun w => hmem ▸ h.wf w, nofun,
    fun n hn => hp.trans (h.pc n hn)⟩

/-- Where PC ends may be forgotten. -/
theorem anywhere (h : Runs adv wr s t) : Runs none wr s t := h.jump rfl rfl

/-! ### The primitives -/

theorem memRead (h : Runs adv wr s t) (a : Word) : Runs adv wr s (t.memRead a).2 :=
  h.callsTo (memRead_spec t a).1 (by simp [isDataCall]) id rfl rfl

theorem memWrite (h : Runs adv wr s t) (a : Word) (v : Byte) : Runs adv wr s (t.memWrite a v) :=
  h.callsTo (memWrite_spec t a v).1 (by simp [isDataCall]) (memWrite_wf t a v) rfl rfl

theorem portRead (h : Runs adv wr s t) (p : Word) : Runs adv wr s (t.portRead p).2 :=
  h.callsTo (portRead_spec t p).2.2.1 (by simp [isDataCall]) id rfl rfl

theorem portWrite (h : Runs adv wr s t) (p : Word) (v : Byte) : Runs adv wr s (t.portWrite p v) :=
  h.callsTo (portWrite_spec t p v).1 (by simp [isDataCall]) id rfl rfl

theorem idle (h : Runs adv wr s t) (a : Word) (n : Nat) : Runs adv wr s (t.idle a n) :=
  h.callsTo (idle_spec t a n).1 (by simp +contextual [isDataCall, List.mem_replicate]) id rfl rfl

theorem imm8 (h : Runs adv wr s t) : Runs (adv.map (· + 1)) wr s t.imm8 := by
  have hu : Runs adv wr s { t.imm8 with pc := t.pc } :=
    h.callsTo (imm8_spec t).2.1 (by simp [isDataCall]) id rfl rfl
  refine ⟨hu.issued, hu.wf, hu.kept, fun n hn => ?_⟩
  obtain ⟨m, rfl, rfl⟩ := Option.map_eq_some_iff.1 hn
  rw [imm8_pc, h.pc m rfl]
  apply BitVec.eq_of_toNat_eq; simp; omega

theorem setMemptr (h : Runs adv wr s t) (v : Word) : Runs adv wr s { t with memptr := v } := h.update rfl rfl rfl

theorem setSp (h : Runs adv wr s t) (v : Word) : Runs adv wr s { t with sp := v } := h.update rfl rfl rfl

theorem setPc (h : Runs adv wr s t) (v : Word) : Runs none wr s { t with pc := v } := h.jump rfl rfl

theorem setHl (h : Runs adv wr s t) (v : Word) : Runs adv wr s { t with hl := v } := h.update rfl rfl rfl

theorem setBc (h : Runs adv wr s t) (v : Word) : Runs adv wr s { t with bc := v } := h.update rfl rfl rfl

theorem setF (h : Runs adv wr s t) (v : Byte) : Runs adv wr s (t.setF v) := h.update rfl rfl rfl

theorem setA (h : Runs adv wr s t) (v : Byte) : Runs adv wr s (t.setA v) := h.update rfl rfl rfl

theorem setReg (h : Runs adv wr s t) (r : Reg8) (v : Byte) : Runs adv wr s (t.setReg r v) := by
  cases r <;> exact h.update rfl rfl rfl

theorem setPairSp (h : Runs adv wr s t) (p : PairSp) (v : Word) : Runs adv wr s (t.setPairSp p v) := by
  cases p <;> exact h.update rfl rfl rfl

theorem setPairAf (h : Runs adv wr s t) (p : PairAf) (v : Word) : Runs adv wr s (t.setPairAf p v) := by
  cases p <;> exact h.update rfl rfl rfl

theorem setIdx (h : Runs adv wr s t) (x : IdxReg) (v : Word) : Runs adv wr s (t.setIdx x v) := by
  cases x <;> exact h.update rfl rfl rfl

theorem setHalf (h : Runs adv wr s t) (x : IdxReg) (k : Half) (v : Byte) : Runs adv wr s (t.setHalf x k v) := by
  cases k <;> exact h.setIdx x _

/-! ### The shared operations -/

theorem imm16 (h : Runs adv wr s t) : Runs ((adv.map (· + 1)).map (· + 1)) wr s t.imm16 := h.imm8.imm8

theorem memRead16 (h : Runs adv wr s t) (a : Word) : Runs adv wr s (t.memRead16 a).2 :=
  (h.memRead _).memRead _

theorem memWrite16 (h : Runs adv wr s t) (a v : Word) : Runs adv wr s (t.memWrite16 a v) :=
  (h.memWrite _ _).memWrite _ _

theorem push16 (h : Runs adv wr s t) (v : Word) : Runs adv wr s (t.push16 v) := by
  rw [push16_eq]
  exact ((h.memWrite _ _).memWrite _ _).setSp _

theorem pop16 (h : Runs adv wr s t) : Runs adv wr s t.pop16.2 :=
  (((h.memRead t.sp).setSp (t.sp + 1)).memRead (t.sp + 1)).setSp _

theorem goTo (h : Runs adv wr s t) (a : Word) : Runs none wr s (t.goTo a) := h.jump rfl rfl

theorem return_ (h : Runs adv wr s t) : Runs none wr s t.return := h.pop16.goTo _

theorem idxOperand (h : Runs adv wr s t) (x : IdxReg) (d : Byte) :
    Runs (adv.map (· + 1)) wr s (t.idxOperand x d).2 :=
  (h.imm8.idle _ 5).setMemptr _

theorem readIdx (h : Runs adv wr s t) (x : IdxReg) (d : Byte) : Runs (adv.map (· + 1)) wr s (t.readIdx x d).2 :=
  (h.idxOperand x d).memRead _

theorem modify (h : Runs adv wr s t) (a : Word) (op : Byte → Byte → Byte × Byte) :
    Runs adv wr s (t.modify a op).2 :=
  (((h.memRead a).idle a 1).setF _).memWrite a _

theorem modifyIdx (h : Runs adv wr s t) (x : IdxReg) (d : Byte) (op : Byte → Byte → Byte × Byte) :
    Runs (adv.map (· + 1)) wr s (t.modifyIdx x d op) :=
  (h.idxOperand x d).modify _ op

theorem modifyIdxCb (h : Runs adv wr s t) (x : IdxReg) (d : Byte) (copy : Option Reg8)
    (op : Byte → Byte → Byte × Byte) : Runs adv wr s (t.modifyIdxCb x d copy op) := by
  have hm := (h.setMemptr (t.idxAddr x d)).modify (t.idxAddr x d) op
  cases copy with
  | none => exact hm
  | some r => exact hm.setReg r _

theorem wide (h : Runs adv wr s t) (v : Word) : Runs adv wr s (t.wide v) := (h.idle _ 7).setMemptr _

theorem aluApply (h : Runs adv wr s t) (op : AluOp) (v : Byte) : Runs adv wr s (t.aluApply op v) :=
  (h.setF _).setA _

theorem exchangeTop (h : Runs adv wr s t) (v : Word) : Runs adv wr s (t.exchangeTop v).2 :=
  (((((h.memRead16 t.sp).idle (t.sp + 1) 1).memWrite (t.sp + 1) _).memWrite t.sp _).idle t.sp 2).setMemptr _

theorem ldStep (h : Runs adv wr s t) (delta : Word) : Runs adv wr s (t.ldStep delta) :=
  (((h.memRead t.hl).memWrite t.de _).idle t.de 2).update rfl rfl rfl

theorem cpStep (h : Runs adv wr s t) (delta : Word) : Runs adv wr s (t.cpStep delta) :=
  ((h.memRead t.hl).idle t.hl 5).update rfl rfl rfl

theorem repeatBlock (h : Runs adv wr s t) (a : Word) : Runs none wr s (t.repeatBlock a) :=
  (h.idle a 5).setPc _

theorem inC (h : Runs adv wr s t) : Runs adv wr s t.inC.2 := ((h.portRead t.bc).setF _).setMemptr _

theorem outC (h : Runs adv wr s t) (v : Byte) : Runs adv wr s (t.outC v) := (h.portWrite t.bc v).setMemptr _

theorem inStep (h : Runs adv wr s t) (delta : Word) : Runs adv wr s (t.inStep delta) :=
  (((h.idle _ 1).portRead t.bc).memWrite t.hl _).update rfl rfl rfl

theorem outStep (h : Runs adv wr s t) (delta : Word) : Runs adv wr s (t.outStep delta) :=
  ((((h.idle _ 1).memRead t.hl).setBc _).portWrite _ _).update rfl rfl rfl

theorem relativeJump (h : Runs adv wr s t) (e : Byte) : Runs none wr s (t.relativeJump e) := (h.idle _ 5).goTo _

theorem call (h : Runs adv wr s t) (nn : Word) : Runs none wr s (t.call nn) :=
  ((h.idle _ 1).push16 _).setPc nn

theorem loadWord (h : Runs adv wr s t) (nn : Word) :
    Runs ((adv.map (· + 1)).map (· + 1)) wr s (t.loadWord nn).2 :=
  (h.imm16.memRead16 nn).setMemptr _

theorem storeWord (h : Runs adv wr s t) (nn v : Word) :
    Runs ((adv.map (· + 1)).map (· + 1)) wr s (t.storeWord nn v) :=
  (h.imm16.memWrite16 nn v).setMemptr _

theorem loadA (h : Runs adv wr s t) (a : Word) : Runs adv wr s (t.loadA a) :=
  ((h.memRead a).setA _).setMemptr _

theorem storeA (h : Runs adv wr s t) (a : Word) : Runs adv wr s (t.storeA a) := (h.memWrite a _).setMemptr _

theorem rotateDigits (h : Runs adv wr s t) (digits : Byte → Byte → Byte × Byte) :
    Runs adv wr s (t.rotateDigits digits) :=
  (((((h.memRead t.hl).idle t.hl 4).setF _).setA _).memWrite t.hl _).setMemptr _

end Runs
end Sys2Proof.Machine

namespace Sys2Proof.Machine
open Sys2Proof

/-! # Operations as functions of the state -/

/-- The state with another T. -/
def State.withT (s : State) (m : Nat) : State := { s with tStates := m }

/-- The state with another MEMPTR. -/
def State.withMemptr (s : State) (w : Word) : State := { s with memptr := w }

/-- What the Operation of an instruction does, as a function of the state: its runs are `Runs`, T reaches nothing
but T, and unless the Operation reads MEMPTR (`rd`), MEMPTR reaches nothing but MEMPTR. -/
structure Regular (adv : Option Nat) (wr rd : Bool) (f : State → State) : Prop where
  runs : ∀ s, Runs adv wr s (f s)
  hidesT : ∀ s m, ∃ m', f (s.withT m) = (f s).withT m'
  hidesMemptr : rd = false → ∀ s w, ∃ w', f (s.withMemptr w) = (f s).withMemptr w'

theorem idxOperand_withT (s : State) (m : Nat) (x : IdxReg) (d : Byte) :
    (s.withT m).idxOperand x d = ((s.idxOperand x d).1, (s.idxOperand x d).2.withT (m + 3 + 5)) := rfl

/-- The operand (IDX+d) leaves MEMPTR at its address, whatever it was. -/
theorem idxOperand_withMemptr (s : State) (w : Word) (x : IdxReg) (d : Byte) :
    (s.withMemptr w).idxOperand x d = s.idxOperand x d := rfl

theorem readIdx_withT (s : State) (m : Nat) (x : IdxReg) (d : Byte) :
    (s.withT m).readIdx x d = ((s.readIdx x d).1, (s.readIdx x d).2.withT (m + 3 + 5 + 3)) := rfl

theorem readIdx_withMemptr (s : State) (w : Word) (x : IdxReg) (d : Byte) :
    (s.withMemptr w).readIdx x d = s.readIdx x d := rfl

theorem call_withT (s : State) (m : Nat) (nn : Word) :
    (s.withT m).call nn = (s.call nn).withT (m + 1 + 3 + 3) := rfl

theorem modify_withT (s : State) (m : Nat) (a : Word) (op : Byte → Byte → Byte × Byte) :
    (s.withT m).modify a op = ((s.modify a op).1, (s.modify a op).2.withT (m + 3 + 1 + 3)) := rfl

/-- A setter of registers outside `State.kept`, and not of T or MEMPTR. Setters choose by their operand, so a
value they write is seen through this rule rather than by computing. -/
structure Setter {α : Type} (set : State → α → State) : Prop where
  runs : ∀ {adv : Option Nat} {wr : Bool} {s t : State}, Runs adv wr s t → ∀ v, Runs adv wr s (set t v)
  withT : ∀ s m v, set (s.withT m) v = (set s v).withT m
  withMemptr : ∀ s w v, set (s.withMemptr w) v = (set s v).withMemptr w

theorem setReg_setter (r : Reg8) : Setter (·.setReg r ·) := by
  cases r <;> exact ⟨fun h v => h.setReg _ v, fun _ _ _ => rfl, fun _ _ _ => rfl⟩

theorem setPairSp_setter (p : PairSp) : Setter (·.setPairSp p ·) := by
  cases p <;> exact ⟨fun h v => h.setPairSp _ v, fun _ _ _ => rfl, fun _ _ _ => rfl⟩

theorem setPairAf_setter (p : PairAf) : Setter (·.setPairAf p ·) := by
  cases p <;> exact ⟨fun h v => h.setPairAf _ v, fun _ _ _ => rfl, fun _ _ _ => rfl⟩

theorem setIdx_setter (x : IdxReg) : Setter (·.setIdx x ·) := by
  cases x <;> exact ⟨fun h v => h.setIdx _ v, fun _ _ _ => rfl, fun _ _ _ => rfl⟩

theorem setHalf_setter (x : IdxReg) (k : Half) : Setter (·.setHalf x k ·) := by
  cases x <;> cases k <;> exact ⟨fun h v => h.setHalf _ _ v, fun _ _ _ => rfl, fun _ _ _ => rfl⟩

theorem modifyIdxCb_withT (s : State) (m : Nat) (x : IdxReg) (d : Byte) (copy : Option Reg8)
    (op : Byte → Byte → Byte × Byte) :
    (s.withT m).modifyIdxCb x d copy op = (s.modifyIdxCb x d copy op).withT (m + 3 + 1 + 3) := by
  cases copy with
  | none => rfl
  | some r =>
    let u := { s with memptr := s.idxAddr x d }.modify (s.idxAddr x d) op
    exact (setReg_setter r).withT u.2 (m + 3 + 1 + 3) u.1

/-- The displaced read-modify-write leaves MEMPTR at its address, whatever it was. -/
theorem modifyIdxCb_withMemptr (s : State) (w : Word) (x : IdxReg) (d : Byte) (copy : Option Reg8)
    (op : Byte → Byte → Byte × Byte) : (s.withMemptr w).modifyIdxCb x d copy op = s.modifyIdxCb x d copy op := rfl

namespace Regular

/-- A choice by a condition that neither T nor MEMPTR enters. -/
theorem ite {adv : Option Nat} {wr rd : Bool} {f g : State → State} (hf : Regular adv wr rd f)
    (hg : Regular adv wr rd g) (c : State → Prop) [DecidablePred c] (hT : ∀ s m, c (s.withT m) ↔ c s)
    (hM : ∀ s w, c (s.withMemptr w) ↔ c s) : Regular adv wr rd fun s => if c s then f s else g s where
  runs s := by
    split
    · exact hf.runs s
    · exact hg.runs s
  hidesT s m := by
    simp only [hT]
    split
    · exact hf.hidesT s m
    · exact hg.hidesT s m
  hidesMemptr h s w := by
    simp only [hM]
    split
    · exact hf.hidesMemptr h s w
    · exact hg.hidesMemptr h s w

/-- An Operation through which T and MEMPTR are seen not to pass by computing it. -/
theorem of {adv : Option Nat} {wr rd : Bool} {f : State → State} (runs : ∀ s, Runs adv wr s (f s))
    (hT : ∀ s m, ∃ m', f (s.withT m) = (f s).withT m' := by exact fun _ _ => ⟨_, rfl⟩)
    (hM : ∀ s w, ∃ w', f (s.withMemptr w) = (f s).withMemptr w' := by exact fun _ _ => ⟨_, rfl⟩) :
    Regular adv wr rd f :=
  ⟨runs, hT, fun _ => hM⟩

/-- An Operation that leaves MEMPTR at a value of its own, whatever it was. -/
theorem ofOverwrite {adv : Option Nat} {wr rd : Bool} {f : State → State} (runs : ∀ s, Runs adv wr s (f s))
    (hT : ∀ s m, ∃ m', f (s.withT m) = (f s).withT m') (hM : ∀ s w, f (s.withMemptr w) = f s) :
    Regular adv wr rd f :=
  ⟨runs, hT, fun _ s w => ⟨(f s).memptr, hM s w⟩⟩

/-- For an Operation that reads MEMPTR there is nothing to show of it. -/
theorem ofReader {adv : Option Nat} {wr : Bool} {f : State → State} (runs : ∀ s, Runs adv wr s (f s))
    (hT : ∀ s m, ∃ m', f (s.withT m) = (f s).withT m') : Regular adv wr true f :=
  ⟨runs, hT, nofun⟩

/-- A regular Operation that ends in setting a value that neither T nor MEMPTR enters is regular. -/
theorem set {adv : Option Nat} {wr rd : Bool} {f : State → State} {α : Type} {set : State → α → State}
    (hset : Setter set) {v : State → α} (hf : Regular adv wr rd f)
    (hT : ∀ s m, v (s.withT m) = v s := by exact fun _ _ => rfl)
    (hM : ∀ s w, v (s.withMemptr w) = v s := by exact fun _ _ => rfl) : Regular adv wr rd fun s => set (f s) (v s) where
  runs s := hset.runs (hf.runs s) _
  hidesT s m := by
    obtain ⟨m', h⟩ := hf.hidesT s m
    exact ⟨m', by rw [h, hT, hset.withT]⟩
  hidesMemptr hr s w := by
    obtain ⟨w', h⟩ := hf.hidesMemptr hr s w
    exact ⟨w', by rw [h, hM, hset.withMemptr]⟩

/-! ### The 8-bit ALU, INC and DEC, the rotates and shifts -/

theorem aluReg (op : AluOp) (r : Reg8) : Regular (some 0) false false (·.aluReg op r) :=
  ⟨fun s => (Runs.refl s).aluApply op _, fun _ _ => ⟨_, rfl⟩, fun _ _ _ => ⟨_, rfl⟩⟩

theorem aluHl (op : AluOp) : Regular (some 0) false false (·.aluHl op) :=
  ⟨fun s => ((Runs.refl s).memRead s.hl).aluApply op _, fun _ _ => ⟨_, rfl⟩, fun _ _ _ => ⟨_, rfl⟩⟩

theorem aluImm (op : AluOp) (n : Byte) : Regular (some 1) false false (·.aluImm op n) :=
  ⟨fun s => (Runs.refl s).imm8.aluApply op n, fun _ _ => ⟨_, rfl⟩, fun _ _ _ => ⟨_, rfl⟩⟩

theorem aluHalf (op : AluOp) (x : IdxReg) (k : Half) : Regular (some 0) false false (·.aluHalf op x k) :=
  ⟨fun s => (Runs.refl s).aluApply op _, fun _ _ => ⟨_, rfl⟩, fun _ _ _ => ⟨_, rfl⟩⟩

theorem aluIdx (op : AluOp) (x : IdxReg) (d : Byte) : Regular (some 1) false false (·.aluIdx op x d) :=
  .ofOverwrite (fun s => ((Runs.refl s).readIdx x d).aluApply op _)
    (fun s m => ⟨_, by rw [State.aluIdx, readIdx_withT]; rfl⟩)
    fun s w => by rw [State.aluIdx, readIdx_withMemptr, State.aluIdx]

theorem rotateA (k : RotOp) : Regular (some 0) false false (·.rotateA k) :=
  ⟨fun s => ((Runs.refl s).setF _).setA _, fun _ _ => ⟨_, rfl⟩, fun _ _ _ => ⟨_, rfl⟩⟩

theorem modifyHl (op : Byte → Byte → Byte × Byte) : Regular (some 0) false false fun s => (s.modify s.hl op).2 :=
  ⟨fun s => (Runs.refl s).modify s.hl op, fun _ _ => ⟨_, rfl⟩, fun _ _ _ => ⟨_, rfl⟩⟩

theorem modifyReg (r : Reg8) (op : Byte → Byte → Byte × Byte) : Regular (some 0) false false (·.modifyReg r op) :=
  .set (setReg_setter r) (f := fun s => s.setF (op (s.reg r) s.f).2)
    ⟨fun s => (Runs.refl s).setF _, fun _ _ => ⟨_, rfl⟩, fun _ _ _ => ⟨_, rfl⟩⟩ (fun _ _ => rfl) fun _ _ => rfl

theorem modifyHalf (x : IdxReg) (k : Half) (op : Byte → Byte → Byte × Byte) :
    Regular (some 0) false false (·.modifyHalf x k op) :=
  .set (setHalf_setter x k) (f := fun s => s.setF (op (s.half x k) s.f).2)
    ⟨fun s => (Runs.refl s).setF _, fun _ _ => ⟨_, rfl⟩, fun _ _ _ => ⟨_, rfl⟩⟩ (fun _ _ => rfl) fun _ _ => rfl

theorem modifyIdx (x : IdxReg) (d : Byte) (op : Byte → Byte → Byte × Byte) :
    Regular (some 1) false false (·.modifyIdx x d op) :=
  .ofOverwrite (fun s => (Runs.refl s).modifyIdx x d op)
    (fun s m => ⟨_, by rw [State.modifyIdx, idxOperand_withT, modify_withT]; rfl⟩)
    fun s w => by rw [State.modifyIdx, idxOperand_withMemptr, State.modifyIdx]

theorem modifyIdxCb (x : IdxReg) (d : Byte) (copy : Option Reg8) (op : Byte → Byte → Byte × Byte) :
    Regular (some 0) false false (·.modifyIdxCb x d copy op) :=
  .ofOverwrite (fun s => (Runs.refl s).modifyIdxCb x d copy op) (fun s m => ⟨_, modifyIdxCb_withT s m x d copy op⟩)
    fun s w => modifyIdxCb_withMemptr s w x d copy op

theorem rotateDigits (digits : Byte → Byte → Byte × Byte) : Regular (some 0) false false (·.rotateDigits digits) :=
  ⟨fun s => (Runs.refl s).rotateDigits digits, fun _ _ => ⟨_, rfl⟩, fun _ _ _ => ⟨_, rfl⟩⟩

/-! ### Block instructions -/

theorem ldStep (delta : Word) : Regular (some 0) false false (·.ldStep delta) :=
  ⟨fun s => (Runs.refl s).ldStep delta, fun _ _ => ⟨_, rfl⟩, fun _ _ _ => ⟨_, rfl⟩⟩

theorem ldRepeat (delta : Word) : Regular none false false (·.ldRepeat delta) := by
  have again : Regular none false false fun s =>
      { (s.ldStep delta).repeatBlock s.de with memptr := ((s.ldStep delta).repeatBlock s.de).pc + 1 } :=
    ⟨fun s => (((Runs.refl s).ldStep delta).repeatBlock s.de).setMemptr _, fun _ _ => ⟨_, rfl⟩, fun _ _ _ => ⟨_, rfl⟩⟩
  have done : Regular none false false fun s => s.ldStep delta :=
    ⟨fun s => ((Runs.refl s).ldStep delta).anywhere, fun _ _ => ⟨_, rfl⟩, fun _ _ _ => ⟨_, rfl⟩⟩
  exact .ite again done (fun s => (s.ldStep delta).bc ≠ 0) (fun _ _ => .rfl) fun _ _ => .rfl

theorem cpSingle (delta : Word) : Regular (some 0) false true (·.cpSingle delta) :=
  .ofReader (fun s => ((Runs.refl s).cpStep delta).setMemptr _) fun _ _ => ⟨_, rfl⟩

theorem cpRepeat (delta : Word) : Regular none false true (·.cpRepeat delta) := by
  have again : Regular none false true fun s =>
      { (s.cpStep delta).repeatBlock s.hl with memptr := ((s.cpStep delta).repeatBlock s.hl).pc + 1 } :=
    .ofReader (fun s => (((Runs.refl s).cpStep delta).repeatBlock s.hl).setMemptr _) fun _ _ => ⟨_, rfl⟩
  have done : Regular none false true fun s => { s.cpStep delta with memptr := (s.cpStep delta).memptr + delta } :=
    .ofReader (fun s => (((Runs.refl s).cpStep delta).setMemptr _).anywhere) fun _ _ => ⟨_, rfl⟩
  exact .ite again done (fun s => (s.cpStep delta).bc ≠ 0 ∧ flagZ (s.cpStep delta).f = false)
    (fun _ _ => .rfl) fun _ _ => .rfl

theorem inStep (delta : Word) : Regular (some 0) false false (·.inStep delta) :=
  ⟨fun s => (Runs.refl s).inStep delta, fun _ _ => ⟨_, rfl⟩, fun _ _ _ => ⟨_, rfl⟩⟩

theorem outStep (delta : Word) : Regular (some 0) false false (·.outStep delta) :=
  ⟨fun s => (Runs.refl s).outStep delta, fun _ _ => ⟨_, rfl⟩, fun _ _ _ => ⟨_, rfl⟩⟩

/-- A block I/O instruction repeats its iteration while B ≠ 0. -/
theorem ioRepeat {adv : Option Nat} {wr rd : Bool} {f : State → State} (hf : Regular adv wr rd f) {a : State → Word}
    (hT : ∀ s m, a (s.withT m) = a s) (hM : ∀ s w, a (s.withMemptr w) = a s) :
    Regular none wr rd fun s => (f s).ioRepeat (a s) where
  runs s := by
    unfold State.ioRepeat
    split
    · exact (hf.runs s).repeatBlock _
    · exact (hf.runs s).anywhere
  hidesT s m := by
    obtain ⟨m', h⟩ := hf.hidesT s m
    have hb : ((f s).withT m').reg .b = (f s).reg .b := rfl
    rw [h, hT, State.ioRepeat, State.ioRepeat, hb]
    split
    · exact ⟨_, rfl⟩
    · exact ⟨_, rfl⟩
  hidesMemptr hr s w := by
    obtain ⟨w', h⟩ := hf.hidesMemptr hr s w
    have hb : ((f s).withMemptr w').reg .b = (f s).reg .b := rfl
    rw [h, hM, State.ioRepeat, State.ioRepeat, hb]
    split
    · exact ⟨_, rfl⟩
    · exact ⟨_, rfl⟩

theorem inRepeat (delta : Word) : Regular none false false fun s => (s.inStep delta).ioRepeat s.hl :=
  (inStep delta).ioRepeat (fun _ _ => rfl) fun _ _ => rfl

theorem outRepeat (delta : Word) : Regular none false false fun s => (s.outStep delta).ioRepeat (s.outStep delta).bc :=
  (outStep delta).ioRepeat (fun _ _ => rfl) fun _ _ => rfl

end Regular
end Sys2Proof.Machine

namespace Sys2Proof.Machine
open Sys2Proof

namespace Regular

/-! ### Jumps, calls and returns -/

theorem jpCcNn (cc : Cond) (nn : Word) :
    Regular none false false fun s =>
      if condHolds cc s.f then { s.imm16 with memptr := nn, pc := nn } else { s.imm16 with memptr := nn } := by
  have taken : Regular none false false fun s => { s.imm16 with memptr := nn, pc := nn } :=
    ⟨fun s => ((Runs.refl s).imm16.setMemptr nn).setPc nn, fun _ _ => ⟨_, rfl⟩, fun _ _ _ => ⟨_, rfl⟩⟩
  have passed : Regular none false false fun s => { s.imm16 with memptr := nn } :=
    ⟨fun s => ((Runs.refl s).imm16.setMemptr nn).anywhere, fun _ _ => ⟨_, rfl⟩, fun _ _ _ => ⟨_, rfl⟩⟩
  exact .ite taken passed _ (fun _ _ => .rfl) fun _ _ => .rfl

theorem jrCc (cc : JrCond) (e : Byte) :
    Regular none false false fun s => if jrCondHolds cc s.f then s.imm8.relativeJump e else s.imm8 := by
  have taken : Regular none false false fun s => s.imm8.relativeJump e :=
    ⟨fun s => (Runs.refl s).imm8.relativeJump e, fun _ _ => ⟨_, rfl⟩, fun _ _ _ => ⟨_, rfl⟩⟩
  have passed : Regular none false false fun s => s.imm8 :=
    ⟨fun s => (Runs.refl s).imm8.anywhere, fun _ _ => ⟨_, rfl⟩, fun _ _ _ => ⟨_, rfl⟩⟩
  exact .ite taken passed _ (fun _ _ => .rfl) fun _ _ => .rfl

/-- DJNZ tests B after decrementing it (R465). -/
theorem djnz (e : Byte) :
    Regular none false false fun s =>
      let s1 := (s.idle s.irAddr 1).imm8
      let s2 := s1.setReg .b (s1.reg .b - 1)
      if s2.reg .b ≠ 0 then s2.relativeJump e else s2 := by
  have passed : Regular none false false fun s =>
      (s.idle s.irAddr 1).imm8.setReg .b ((s.idle s.irAddr 1).imm8.reg .b - 1) :=
    ⟨fun s => (((Runs.refl s).idle _ 1).imm8.setReg .b _).anywhere, fun _ _ => ⟨_, rfl⟩, fun _ _ _ => ⟨_, rfl⟩⟩
  have taken : Regular none false false fun s =>
      ((s.idle s.irAddr 1).imm8.setReg .b ((s.idle s.irAddr 1).imm8.reg .b - 1)).relativeJump e :=
    ⟨fun s => (((Runs.refl s).idle _ 1).imm8.setReg .b _).relativeJump e, fun _ _ => ⟨_, rfl⟩, fun _ _ _ => ⟨_, rfl⟩⟩
  exact .ite taken passed _ (fun _ _ => .rfl) fun _ _ => .rfl

theorem callNn (nn : Word) : Regular none false false fun s => { s.imm16 with memptr := nn }.call nn :=
  .ofOverwrite (fun s => ((Runs.refl s).imm16.setMemptr nn).call nn)
    (fun s m => ⟨_, call_withT { s.imm16 with memptr := nn } (m + 3 + 3) nn⟩) fun _ _ => rfl

theorem callCcNn (cc : Cond) (nn : Word) :
    Regular none false false fun s =>
      if condHolds cc s.f then { s.imm16 with memptr := nn }.call nn else { s.imm16 with memptr := nn } := by
  have passed : Regular none false false fun s => { s.imm16 with memptr := nn } :=
    ⟨fun s => ((Runs.refl s).imm16.setMemptr nn).anywhere, fun _ _ => ⟨_, rfl⟩, fun _ _ _ => ⟨_, rfl⟩⟩
  exact .ite (callNn nn) passed _ (fun _ _ => .rfl) fun _ _ => .rfl

theorem retCc (cc : Cond) :
    Regular none false false fun s =>
      if condHolds cc s.f then (s.idle s.irAddr 1).return else s.idle s.irAddr 1 := by
  have taken : Regular none false false fun s => (s.idle s.irAddr 1).return :=
    ⟨fun s => ((Runs.refl s).idle _ 1).return_, fun _ _ => ⟨_, rfl⟩, fun _ _ _ => ⟨_, rfl⟩⟩
  have passed : Regular none false false fun s => s.idle s.irAddr 1 :=
    ⟨fun s => ((Runs.refl s).idle _ 1).anywhere, fun _ _ => ⟨_, rfl⟩, fun _ _ _ => ⟨_, rfl⟩⟩
  exact .ite taken passed _ (fun _ _ => .rfl) fun _ _ => .rfl

theorem returnFromInterrupt : Regular none true false (·.returnFromInterrupt) :=
  ⟨fun s => (Runs.refl s).return_.writeKept rfl rfl, fun _ _ => ⟨_, rfl⟩, fun _ _ _ => ⟨_, rfl⟩⟩

/-! ### A load of both operand bytes -/

/-- `LD (IDX+d),n` reads both its operand bytes before it idles (R237). -/
theorem ldIndIdxN (x : IdxReg) (d n : Byte) :
    Regular (some 2) false false fun s =>
      let s1 := s.imm8.imm8
      let s2 := s1.idle (s1.pc - 1) 2
      { s2 with memptr := s2.idxAddr x d }.memWrite (s2.idxAddr x d) n :=
  ⟨fun s => (((Runs.refl s).imm8.imm8.idle _ 2).setMemptr _).memWrite _ _, fun _ _ => ⟨_, rfl⟩, fun _ _ _ => ⟨_, rfl⟩⟩

end Regular

/-- Every Operation but that of a redundant index prefix is regular. -/
theorem exec_regular (i : Instr) (hi : ∀ x op, i = .ignoredIndexPrefix x op → isIndexPrefix op = false) :
    ∃ f, (∀ s, exec i s = .next (f s)) ∧ Regular (pcAdvance i) (writesKept i) (readsMemptr i) f := by
  cases i
  case addAR r | adcAR r | subR r | sbcAR r | andR r | xorR r | orR r | cpR r => exact ⟨_, fun _ => rfl, .aluReg _ r⟩
  case addAIndHl | adcAIndHl | subIndHl | sbcAIndHl | andIndHl | xorIndHl | orIndHl | cpIndHl =>
    exact ⟨_, fun _ => rfl, .aluHl _⟩
  case addAN n | adcAN n | subN n | sbcAN n | andN n | xorN n | orN n | cpN n => exact ⟨_, fun _ => rfl, .aluImm _ n⟩
  case addAIdxHalf x k | adcAIdxHalf x k | subIdxHalf x k | sbcAIdxHalf x k | andIdxHalf x k | xorIdxHalf x k
      | orIdxHalf x k | cpIdxHalf x k => exact ⟨_, fun _ => rfl, .aluHalf _ x k⟩
  case addAIndIdx x d | adcAIndIdx x d | subIndIdx x d | sbcAIndIdx x d | andIndIdx x d | xorIndIdx x d
      | orIndIdx x d | cpIndIdx x d => exact ⟨_, fun _ => rfl, .aluIdx _ x d⟩
  case rlca | rla | rrca | rra => exact ⟨_, fun _ => rfl, .rotateA _⟩
  case incR r | decR r | rlcR r | rrcR r | rlR r | rrR r | slaR r | sraR r | sllR r | srlR r | resBR b r
      | setBR b r => exact ⟨_, fun _ => rfl, .modifyReg r _⟩
  case incIndHl | decIndHl | rlcIndHl | rrcIndHl | rlIndHl | rrIndHl | slaIndHl | sraIndHl | sllIndHl | srlIndHl
      | resBIndHl b | setBIndHl b => exact ⟨_, fun _ => rfl, .modifyHl _⟩
  case incIdxHalf x k | decIdxHalf x k => exact ⟨_, fun _ => rfl, .modifyHalf x k _⟩
  case incIndIdx x d | decIndIdx x d => exact ⟨_, fun _ => rfl, .modifyIdx x d _⟩
  case rlcIndIdx x d | rrcIndIdx x d | rlIndIdx x d | rrIndIdx x d | slaIndIdx x d | sraIndIdx x d | sllIndIdx x d
      | srlIndIdx x d | resBIndIdx x d b | setBIndIdx x d b => exact ⟨_, fun _ => rfl, .modifyIdxCb x d none _⟩
  case rlcIndIdxR x d r | rrcIndIdxR x d r | rlIndIdxR x d r | rrIndIdxR x d r | slaIndIdxR x d r | sraIndIdxR x d r
      | sllIndIdxR x d r | srlIndIdxR x d r | resBIndIdxR x d b r | setBIndIdxR x d b r =>
    exact ⟨_, fun _ => rfl, .modifyIdxCb x d (some r) _⟩
  case rld | rrd => exact ⟨_, fun _ => rfl, .rotateDigits _⟩
  case ldi | ldd => exact ⟨_, fun _ => rfl, .ldStep _⟩
  case ldir | lddr => exact ⟨_, fun _ => rfl, .ldRepeat _⟩
  case cpi | cpd => exact ⟨_, fun _ => rfl, .cpSingle _⟩
  case cpir | cpdr => exact ⟨_, fun _ => rfl, .cpRepeat _⟩
  case ini | ind => exact ⟨_, fun _ => rfl, .inStep _⟩
  case inir | indr => exact ⟨_, fun _ => rfl, .inRepeat _⟩
  case outi | outd => exact ⟨_, fun _ => rfl, .outStep _⟩
  case otir | otdr => exact ⟨_, fun _ => rfl, .outRepeat _⟩
  case jpCcNn cc nn => exact ⟨_, fun _ => rfl, .jpCcNn cc nn⟩
  case jrCc cc e => exact ⟨_, fun _ => rfl, .jrCc cc e⟩
  case djnz e => exact ⟨_, fun _ => rfl, .djnz e⟩
  case callCcNn cc nn => exact ⟨_, fun _ => rfl, .callCcNn cc nn⟩
  case retCc cc => exact ⟨_, fun _ => rfl, .retCc cc⟩
  case reti | retn => exact ⟨_, fun _ => rfl, .returnFromInterrupt⟩
  case nop | nopEd => exact ⟨_, fun _ => rfl, .of fun s => .refl s⟩
  case ignoredIndexPrefix x op =>
    have e : ∀ s, exec (.ignoredIndexPrefix x op) s = .next s := fun s => by
      simp [exec, execIgnoredIndexPrefix, hi x op rfl]
    exact ⟨_, e, .of fun s => .refl s⟩
  case daa | cpl | neg => exact ⟨_, fun _ => rfl, .of fun s => ((Runs.refl s).setF _).setA _⟩
  case scf | ccf | bitBR => exact ⟨_, fun _ => rfl, .of fun s => (Runs.refl s).setF _⟩
  case bitBIndHl b =>
    exact ⟨_, fun _ => rfl, .ofReader (fun s => (((Runs.refl s).memRead _).idle _ 1).setF _) fun _ _ => ⟨_, rfl⟩⟩
  case bitBIndIdx x d b z =>
    exact ⟨_, fun _ => rfl, .of fun s => ((((Runs.refl s).setMemptr _).memRead _).idle _ 1).setF _⟩
  case halt => exact ⟨_, fun _ => rfl, .of fun s => ((Runs.refl s).setPc _).writeKept rfl rfl⟩
  case di | ei | imZero | imOne | imTwo | exAfAf | exx =>
    exact ⟨_, fun _ => rfl, .of fun s => (Runs.refl s).writeKept rfl rfl⟩
  case ldVectorA | ldRefreshA => exact ⟨_, fun _ => rfl, .of fun s => ((Runs.refl s).idle _ 1).writeKept rfl rfl⟩
  case ldAVector | ldARefresh => exact ⟨_, fun _ => rfl, .of fun s => (((Runs.refl s).idle _ 1).setF _).setA _⟩
  case addHlSs | adcHlSs | sbcHlSs => exact ⟨_, fun _ => rfl, .of fun s => (((Runs.refl s).wide _).setF _).setHl _⟩
  case addIdxPp x pp => exact ⟨_, fun _ => rfl, .set (setIdx_setter x) (.of fun s => ((Runs.refl s).wide _).setF _)⟩
  case incSs p | decSs p => exact ⟨_, fun _ => rfl, .set (setPairSp_setter p) (.of fun s => (Runs.refl s).idle _ 2)⟩
  case incIdx x | decIdx x => exact ⟨_, fun _ => rfl, .set (setIdx_setter x) (.of fun s => (Runs.refl s).idle _ 2)⟩
  case ldDdNn p nn => exact ⟨_, fun _ => rfl, .set (setPairSp_setter p) (.of fun s => (Runs.refl s).imm16)⟩
  case ldIdxNn x nn => exact ⟨_, fun _ => rfl, .set (setIdx_setter x) (.of fun s => (Runs.refl s).imm16)⟩
  case ldHlIndNn nn => exact ⟨_, fun _ => rfl, .of fun s => ((Runs.refl s).loadWord nn).setHl _⟩
  case ldDdIndNn p nn => exact ⟨_, fun _ => rfl, .set (setPairSp_setter p) (.of fun s => (Runs.refl s).loadWord nn)⟩
  case ldIdxIndNn x nn => exact ⟨_, fun _ => rfl, .set (setIdx_setter x) (.of fun s => (Runs.refl s).loadWord nn)⟩
  case ldIndNnHl nn | ldIndNnDd p nn | ldIndNnIdx x nn =>
    exact ⟨_, fun _ => rfl, .of fun s => (Runs.refl s).storeWord nn _⟩
  case ldSpHl | ldSpIdx => exact ⟨_, fun _ => rfl, .of fun s => ((Runs.refl s).idle _ 2).setSp _⟩
  case pushQq | pushIdx => exact ⟨_, fun _ => rfl, .of fun s => ((Runs.refl s).idle _ 1).push16 _⟩
  case popQq p => exact ⟨_, fun _ => rfl, .set (setPairAf_setter p) (.of fun s => (Runs.refl s).pop16)⟩
  case popIdx x => exact ⟨_, fun _ => rfl, .set (setIdx_setter x) (.of fun s => (Runs.refl s).pop16)⟩
  case exDeHl => exact ⟨_, fun _ => rfl, .of fun s => (Runs.refl s).update rfl rfl rfl⟩
  case exIndSpHl => exact ⟨_, fun _ => rfl, .of fun s => ((Runs.refl s).exchangeTop _).setHl _⟩
  case exIndSpIdx x => exact ⟨_, fun _ => rfl, .set (setIdx_setter x) (.of fun s => (Runs.refl s).exchangeTop _)⟩
  case ldRR r r' | ldRIdxHalf x r k => exact ⟨_, fun _ => rfl, .set (setReg_setter r) (.of fun s => .refl s)⟩
  case ldRN r n => exact ⟨_, fun _ => rfl, .set (setReg_setter r) (.of fun s => (Runs.refl s).imm8)⟩
  case ldRIndHl r => exact ⟨_, fun _ => rfl, .set (setReg_setter r) (.of fun s => (Runs.refl s).memRead _)⟩
  case ldRIndIdx x r d => exact ⟨_, fun _ => rfl, .set (setReg_setter r) (.of fun s => (Runs.refl s).readIdx x d)⟩
  case inRIndC r => exact ⟨_, fun _ => rfl, .set (setReg_setter r) (.of fun s => (Runs.refl s).inC)⟩
  case ldIdxHalfR x k r | ldIdxHalfIdxHalf x k k' =>
    exact ⟨_, fun _ => rfl, .set (setHalf_setter x k) (.of fun s => .refl s)⟩
  case ldIdxHalfN x k n => exact ⟨_, fun _ => rfl, .set (setHalf_setter x k) (.of fun s => (Runs.refl s).imm8)⟩
  case ldIndHlR => exact ⟨_, fun _ => rfl, .of fun s => (Runs.refl s).memWrite _ _⟩
  case ldIndHlN => exact ⟨_, fun _ => rfl, .of fun s => (Runs.refl s).imm8.memWrite _ _⟩
  case ldIndIdxR x d r => exact ⟨_, fun _ => rfl, .of fun s => ((Runs.refl s).idxOperand x d).memWrite _ _⟩
  case ldIndIdxN x d n => exact ⟨_, fun _ => rfl, .ldIndIdxN x d n⟩
  case ldAIndBc | ldAIndDe => exact ⟨_, fun _ => rfl, .of fun s => (Runs.refl s).loadA _⟩
  case ldAIndNn => exact ⟨_, fun _ => rfl, .of fun s => (Runs.refl s).imm16.loadA _⟩
  case ldIndBcA | ldIndDeA => exact ⟨_, fun _ => rfl, .of fun s => (Runs.refl s).storeA _⟩
  case ldIndNnA => exact ⟨_, fun _ => rfl, .of fun s => (Runs.refl s).imm16.storeA _⟩
  case inIndC => exact ⟨_, fun _ => rfl, .of fun s => (Runs.refl s).inC⟩
  case outIndCR | outIndCZero => exact ⟨_, fun _ => rfl, .of fun s => (Runs.refl s).outC _⟩
  case inAIndN n => exact ⟨_, fun _ => rfl, .of fun s => (((Runs.refl s).imm8.portRead _).setA _).setMemptr _⟩
  case outIndNA n => exact ⟨_, fun _ => rfl, .of fun s => ((Runs.refl s).imm8.portWrite _ _).setMemptr _⟩
  case jpNn nn => exact ⟨_, fun _ => rfl, .of fun s => (Runs.refl s).imm16.goTo nn⟩
  case jr e => exact ⟨_, fun _ => rfl, .of fun s => (Runs.refl s).imm8.relativeJump e⟩
  case jpIndHl | jpIndIdx => exact ⟨_, fun _ => rfl, .of fun s => (Runs.refl s).setPc _⟩
  case callNn nn => exact ⟨_, fun _ => rfl, .callNn nn⟩
  case ret => exact ⟨_, fun _ => rfl, .of fun s => (Runs.refl s).return_⟩
  case rst t => exact ⟨_, fun _ => rfl, .of fun s => (((Runs.refl s).idle _ 1).push16 _).goTo _⟩

end Sys2Proof.Machine

/-! # What every Operation pays, and what neither T nor MEMPTR reaches -/

namespace Sys2Proof.Machine
open Sys2Proof

/-- An instruction is a redundant index prefix, which is fetched by its Operation, or its Operation is regular. -/
theorem exec_cases (i : Instr) :
    (∃ x op, i = .ignoredIndexPrefix x op ∧ isIndexPrefix op = true ∧ ∀ s, exec i s = .next (s.redundantPrefix op))
    ∨ ∃ f, (∀ s, exec i s = .next (f s)) ∧ Regular (pcAdvance i) (writesKept i) (readsMemptr i) f := by
  by_cases h : ∃ x op, i = .ignoredIndexPrefix x op ∧ isIndexPrefix op = true
  · obtain ⟨x, op, rfl, hop⟩ := h
    exact .inl ⟨x, op, rfl, hop, fun s => by simp [exec, execIgnoredIndexPrefix, hop]⟩
  · refine .inr (exec_regular i fun x op hi => ?_)
    by_contra hop
    exact h ⟨x, op, hi, by simpa using hop⟩

theorem exec_issued (i : Instr) (s : State) :
    ∃ t calls, exec i s = .next t ∧ Issued calls s t ∧ ∀ c ∈ calls, isDataCall c = true
      ∨ c = .readFetch s.pc ∧ ∃ x op, i = .ignoredIndexPrefix x op ∧ isIndexPrefix op = true := by
  obtain ⟨x, op, hi, hop, he⟩ | ⟨f, he, hf⟩ := exec_cases i
  · obtain ⟨-, -, -, -, hc, -⟩ := redundantPrefix_spec s op
    exact ⟨_, _, he s, hc, fun c hc => .inr ⟨List.mem_singleton.1 hc, x, op, hi, hop⟩⟩
  · obtain ⟨calls, hc, hd⟩ := (hf.runs s).issued
    exact ⟨_, calls, he s, hc, fun c hc => .inl (hd c hc)⟩

/-! ## T -/

/-- The state n T-states later. -/
def State.later (s : State) (n : Nat) : State := s.withT (s.tStates + n)

/-- Runs that issue callbacks from the same log to the same log issue the same ones. -/
theorem Issued.calls_eq {cs ds : List BusCall} {s s' t t' : State} (h : Issued cs s t) (k : Issued ds s' t')
    (hs : s'.bus = s.bus) (ht : t'.bus = t.bus) : ds = cs := by
  have e : ds.reverse ++ s.bus = cs.reverse ++ s.bus := by rw [← h.1, ← ht, k.1, hs]
  exact List.reverse_injective (List.append_cancel_right e)

theorem exec_later (i : Instr) (s : State) (n : Nat) :
    ∃ t, exec i s = .next t ∧ exec i (s.later n) = .next (t.later n) := by
  have hidden : ∃ t m, exec i s = .next t ∧ exec i (s.later n) = .next (t.withT m) := by
    obtain ⟨x, op, -, -, he⟩ | ⟨f, he, hf⟩ := exec_cases i
    · exact ⟨_, _, he s, he (s.later n)⟩
    · obtain ⟨m, hm⟩ := hf.hidesT s (s.tStates + n)
      exact ⟨_, m, he s, (he _).trans (congrArg _ hm)⟩
  obtain ⟨t, m, ht, ht'⟩ := hidden
  obtain ⟨_, cs, h, hc, -⟩ := exec_issued i s
  obtain ⟨_, ds, h', hd, -⟩ := exec_issued i (s.later n)
  cases ht.symm.trans h
  cases ht'.symm.trans h'
  obtain rfl := hc.calls_eq hd rfl rfl
  have hm : m = t.tStates + n := by
    have e : m = s.tStates + n + (ds.map callCost).sum := hd.2.1
    rw [e, hc.2.1, Nat.add_right_comm]
  exact ⟨t, ht, by rw [ht', hm, State.later]⟩

theorem fetchM1_later (s : State) (n : Nat) : (s.later n).fetchM1 = s.fetchM1.later n :=
  congrArg s.fetchM1.withT (Nat.add_right_comm s.tStates n 4)

theorem fetchM1s_later (k : Nat) (s : State) (n : Nat) : (s.later n).fetchM1s k = (s.fetchM1s k).later n := by
  induction k generalizing s with
  | zero => rfl
  | succ k ih => rw [State.fetchM1s, State.fetchM1s, fetchM1_later, ih]

theorem fetchDisplaced_later (s : State) (n : Nat) : (s.later n).fetchDisplaced = s.fetchDisplaced.later n :=
  congrArg s.fetchDisplaced.withT (show s.tStates + n + 3 + 3 + 2 = s.tStates + 3 + 3 + 2 + n by omega)

theorem fetchInstr_later (s : State) (i : Instr) (n : Nat) : (s.later n).fetchInstr i = (s.fetchInstr i).later n := by
  rw [fetchInstr_eq rfl, fetchInstr_eq rfl,
    show ((s.later n).withPending none) = (s.withPending none).later n from rfl,
    show (s.later n).pendingIndex = s.pendingIndex from rfl]
  simp only [fetchM1s_later]
  split
  · exact fetchDisplaced_later _ n
  · rfl

/-- The instruction a step runs, and where: what is decoded first, or behind an ignored prefix what is decoded
next. -/
theorem runsInstr_eq (s : State) :
    s.runsInstr =
      let u := s.unblocked.fetchInstr s.unblocked.nextInstr
      if goesOn s.unblocked.nextInstr = true then (u.nextInstr, u.fetchInstr u.nextInstr)
      else (s.unblocked.nextInstr, u) := rfl

theorem runsInstr_later (s : State) (n : Nat) : (s.later n).runsInstr = (s.runsInstr.1, s.runsInstr.2.later n) := by
  have hn : ∀ u : State, (u.later n).nextInstr = u.nextInstr := fun _ => rfl
  have hb : (s.later n).unblocked = s.unblocked.later n := rfl
  simp only [runsInstr_eq, hb, hn, fetchInstr_later]
  split <;> rfl

theorem serviceReset_later (s : State) (n : Nat) : (s.later n).serviceReset = s.serviceReset.later n :=
  congrArg s.serviceReset.withT (Nat.add_right_comm s.tStates n Config.tReset)

theorem serviceNmi_later (s : State) (n : Nat) : (s.later n).serviceNmi = s.serviceNmi.later n :=
  congrArg s.serviceNmi.withT (show s.tStates + n + 5 + 3 + 3 = s.tStates + 5 + 3 + 3 + n by omega)

theorem enterInterrupt_later (s : State) (ack : BusCall) (cost n : Nat) :
    (s.later n).enterInterrupt ack cost = (s.enterInterrupt ack cost).later n :=
  congrArg (s.enterInterrupt ack cost).withT
    (show s.tStates + n + cost + 3 + 3 = s.tStates + cost + 3 + 3 + n by omega)

theorem intVector_later (s : State) (n : Nat) : (s.later n).intVector = (s.intVector.1, s.intVector.2.later n) := by
  have hi : (s.later n).im = s.im := rfl
  rw [State.intVector, State.intVector, hi]
  cases s.im with
  | im0 => rfl
  | im1 => rfl
  | im2 =>
    exact congrArg (fun m => (_, (s.memRead16 _).2.withT m))
      (show s.tStates + n + 3 + 3 = s.tStates + 3 + 3 + n by omega)

theorem serviceInt_later (s : State) (n : Nat) : (s.later n).serviceInt = s.serviceInt.later n := by
  have e : ({ s.later n with iff1 := false, iff2 := false } : State)
      = ({ s with iff1 := false, iff2 := false } : State).later n := rfl
  simp only [State.serviceInt, e, enterInterrupt_later, intVector_later]
  rfl

theorem haltedCycle_later (s : State) (n : Nat) : (s.later n).haltedCycle = s.haltedCycle.later n :=
  congrArg s.haltedCycle.withT (Nat.add_right_comm s.tStates n 4)

theorem step_later (s : State) (n : Nat) : ∃ t, step s = .next t ∧ step (s.later n) = .next (t.later n) := by
  obtain h | h | h | h := signal_cases s
  · exact ⟨_, step_reset s h, (step_reset (s.later n) h).trans (congrArg _ (serviceReset_later s n))⟩
  · exact ⟨_, step_nmi s h, (step_nmi (s.later n) h).trans (congrArg _ (serviceNmi_later s n))⟩
  · exact ⟨_, step_int s h, (step_int (s.later n) h).trans (congrArg _ (serviceInt_later s n))⟩
  · cases hh : s.halted with
    | true =>
      exact ⟨_, step_halted s h hh, (step_halted (s.later n) h hh).trans (congrArg _ (haltedCycle_later s.unblocked n))⟩
    | false =>
      obtain ⟨t, ht, hl⟩ := exec_later s.runsInstr.1 s.runsInstr.2 n
      refine ⟨t, (step_runsInstr s h hh).trans ht, ?_⟩
      rw [step_runsInstr (s.later n) h hh, runsInstr_later, hl]

end Sys2Proof.Machine

section
open Sys2Proof Sys2Proof.Machine

/-- Settles O17: a regular Operation issues data callbacks, and a redundant prefix its one fetch. -/
theorem everyInstructionPaysForItsCallbacks : Obligations.EveryInstructionPaysForItsCallbacks := by
  unfold Obligations.EveryInstructionPaysForItsCallbacks
  intro i s
  obtain ⟨t, calls, he, hc, hd⟩ := exec_issued i s
  have absent : ∀ c, isDataCall c = false → c ≠ .readFetch s.pc → c ∉ calls := fun c h hf hm =>
    (hd c hm).elim (fun k => by simp [h] at k) fun k => hf k.1
  refine ⟨t, calls, he, hc, fun a => absent _ rfl nofun, absent _ rfl nofun, absent _ rfl nofun,
    absent _ rfl nofun, fun a ha => ?_⟩
  exact (hd _ ha).elim (fun k => nomatch k) And.right

/-- Settles O58: that MEMPTR stays hidden is a part of a regular Operation, and a redundant prefix does not look
at it. -/
theorem memptrReachesNothingElse : Obligations.MemptrReachesNothingElse := by
  unfold Obligations.MemptrReachesNothingElse
  intro i s w hi
  obtain ⟨x, op, -, -, he⟩ | ⟨f, he, hf⟩ := exec_cases i
  · exact ⟨_, w, he s, he _⟩
  · obtain ⟨w', hw⟩ := hf.hidesMemptr hi s w
    exact ⟨_, w', he s, (he _).trans (congrArg _ hw)⟩

/-- Settles O59: every part of a step adds to T what it adds from an earlier T. -/
theorem nothingDependsOnT : Obligations.NothingDependsOnT := by
  unfold Obligations.NothingDependsOnT
  exact step_later

end

/-! # What a step fetches, and which parts of the state it leaves alone -/

namespace Sys2Proof.Machine
open Sys2Proof

/-! ## Fetching -/

/-- The state without the parts that a fetch changes. -/
def State.unfetched (s : State) : State := { s with pc := 0, r := 0, memIn := [], bus := [], tStates := 0 }

theorem imm8_unfetched (s : State) : s.imm8.unfetched = s.unfetched := rfl

theorem memRead_unfetched (s : State) (a : Word) : (s.memRead a).2.unfetched = s.unfetched := rfl

theorem idle_unfetched (s : State) (a : Word) (n : Nat) : (s.idle a n).unfetched = s.unfetched := rfl

theorem setPc_unfetched (s : State) (v : Word) : State.unfetched { s with pc := v } = s.unfetched := rfl

theorem fetchDisplaced_unfetched (s : State) : s.fetchDisplaced.unfetched = s.imm8.unfetched := by
  rw [State.fetchDisplaced, setPc_unfetched, idle_unfetched, memRead_unfetched]

/-- A fetch of n bytes, k of them in M1 cycles: PC n further, R counted k times, and nothing else but the
callbacks. -/
structure Fetches (n k : Nat) (s t : State) : Prop where
  rest : t.unfetched = s.unfetched
  pc : t.pc = s.pc + BitVec.ofNat 16 n
  bit7 : t.r.getLsbD 7 = s.r.getLsbD 7
  count : t.r.toNat % 128 = (s.r.toNat + k) % 128

namespace Fetches

variable {n k : Nat} {s t : State}

theorem refl (s : State) : Fetches 0 0 s s := ⟨rfl, (BitVec.add_zero _).symm, rfl, rfl⟩

/-- One more byte fetched without an M1 cycle. -/
theorem byte (h : Fetches n k s t) {u : State} (hu : u.unfetched = t.unfetched) (hpc : u.pc = t.pc + 1)
    (hr : u.r = t.r) : Fetches (n + 1) k s u := by
  refine ⟨hu.trans h.rest, ?_, hr ▸ h.bit7, hr ▸ h.count⟩
  rw [hpc, h.pc]
  apply BitVec.eq_of_toNat_eq; simp; omega

theorem m1 (h : Fetches n k s t) : Fetches (n + 1) (k + 1) s t.fetchM1 := by
  obtain ⟨rest, pc, -, -⟩ := h.byte (u := { t.fetchM1 with r := t.r }) rfl rfl rfl
  obtain ⟨hb, hc⟩ := refreshInc_spec t.r
  refine ⟨rest, pc, hb.trans h.bit7, ?_⟩
  have e : t.fetchM1.r.toNat % 128 = (t.r.toNat + 1) % 128 := hc
  rw [e, Nat.add_mod, h.count]
  omega

theorem m1s (h : Fetches n k s t) (j : Nat) : Fetches (n + j) (k + j) s (t.fetchM1s j) := by
  induction j generalizing n k t with
  | zero => exact h
  | succ j ih =>
    have := ih h.m1
    rwa [Nat.add_right_comm n, Nat.add_right_comm k] at this

theorem displaced (h : Fetches n k s t) : Fetches (n + 2) k s t.fetchDisplaced :=
  (h.byte (imm8_unfetched t) rfl rfl).byte (fetchDisplaced_unfetched t) rfl rfl

theorem trans {n' k' : Nat} {u : State} (h : Fetches n k s t) (g : Fetches n' k' t u) :
    Fetches (n + n') (k + k') s u := by
  refine ⟨g.rest.trans h.rest, ?_, g.bit7.trans h.bit7, ?_⟩
  · rw [g.pc, h.pc]
    apply BitVec.eq_of_toNat_eq; simp; omega
  · rw [g.count, Nat.add_mod, h.count]
    omega

end Fetches

theorem fetchInstr_fetches (s : State) (i : Instr) :
    let k := m1Count i - if s.pendingIndex.isSome then 1 else 0
    Fetches (k + if isIdxCb i then 2 else 0) k (s.withPending none) (s.fetchInstr i) := by
  intro k
  have h : Fetches k k (s.withPending none) ((s.withPending none).fetchM1s k) := by
    simpa using (Fetches.refl (s.withPending none)).m1s k
  rw [fetchInstr_eq (n := m1Count i) (cb := isIdxCb i) rfl]
  cases hcb : isIdxCb i with
  | false => exact h
  | true => exact h.displaced

/-- All the fetches of a step, before the Operation that ends it. -/
theorem runsInstr_fetches (s : State) : ∃ n k, Fetches n k (s.unblocked.withPending none) s.runsInstr.2 := by
  have h := fetchInstr_fetches s.unblocked s.unblocked.nextInstr
  rw [runsInstr_eq]
  dsimp only
  split
  · have hp : (s.unblocked.fetchInstr s.unblocked.nextInstr).pendingIndex = none := congrArg State.pendingIndex h.rest
    have h' := fetchInstr_fetches (s.unblocked.fetchInstr s.unblocked.nextInstr)
      (s.unblocked.fetchInstr s.unblocked.nextInstr).nextInstr
    rw [withPending_self hp] at h'
    exact ⟨_, _, h.trans h'⟩
  · exact ⟨_, _, h⟩

/-! ## The parts with one writer -/

/-- An Operation's effect on the parts that few instructions write. -/
structure Keeps (i : Instr) (s t : State) : Prop where
  inputs : Part.inputs.same s t
  pending : t.pendingIndex = s.pendingIndex
  iffs : (s.iff1 = true → s.iff2 = true) → t.iff1 = true → t.iff2 = true
  vector : t.i = s.i ∨ i = .ldVectorA ∧ t.i = s.a
  refresh : t.r = s.r ∨ i = .ldRefreshA ∧ t.r = s.a
  afAlt : t.afAlt = s.afAlt ∨ i = .exAfAf ∧ t.afAlt = s.af
  pairsAlt : t.bcAlt = s.bcAlt ∧ t.deAlt = s.deAlt ∧ t.hlAlt = s.hlAlt
    ∨ i = .exx ∧ t.bcAlt = s.bc ∧ t.deAlt = s.de ∧ t.hlAlt = s.hl

/-- An Operation that leaves the parts with one writer alone. -/
theorem keeps_of_same {i : Instr} {s t : State} (hin : Part.inputs.same s t) (hp : t.pendingIndex = s.pendingIndex)
    (hiff : (s.iff1 = true → s.iff2 = true) → t.iff1 = true → t.iff2 = true)
    (h : (t.i, t.r, t.afAlt, t.bcAlt, t.deAlt, t.hlAlt) = (s.i, s.r, s.afAlt, s.bcAlt, s.deAlt, s.hlAlt)) :
    Keeps i s t := by
  simp only [Prod.mk.injEq] at h
  obtain ⟨hi, hr, haf, hbc, hde, hhl⟩ := h
  exact ⟨hin, hp, hiff, .inl hi, .inl hr, .inl haf, .inl ⟨hbc, hde, hhl⟩⟩

theorem keeps_of_kept {i : Instr} {s t : State} (h : t.kept = s.kept) : Keeps i s t := by
  simp only [State.kept, Prod.mk.injEq] at h
  obtain ⟨haf, hbc, hde, hhl, hi, hr, h1, h2, -, -, -, hp, hin⟩ := h
  exact keeps_of_same hin hp (fun h => by rw [h1, h2]; exact h) (by rw [hi, hr, haf, hbc, hde, hhl])

theorem returnFromInterrupt_keeps (i : Instr) (s : State) : Keeps i s s.returnFromInterrupt := by
  obtain ⟨-, -, -, h1, -, hf, -⟩ := returnFromInterrupt_spec s
  have h2 : s.returnFromInterrupt.iff2 = s.iff2 := hf .iff2 (by simp)
  exact ⟨hf .inputs (by simp), hf .pendingIndex (by simp), fun _ h => by rw [h2, ← h1, h], .inl (hf .vector (by simp)),
    .inl (hf .refresh (by simp)), .inl (hf .afAlt (by simp)),
    .inl ⟨hf .bcAlt (by simp), hf .deAlt (by simp), hf .hlAlt (by simp)⟩⟩

/-- The instructions that do write a part in `State.kept`, one by one in the order of `writesKept`: HALT, DI, EI,
the three IM, EX AF,AF', EXX, LD I,A, LD R,A, RETI and RETN. -/
theorem exec_keeps_of_writesKept {i : Instr} (h : writesKept i = true) (s : State) :
    ∃ t, exec i s = .next t ∧ Keeps i s t := by
  unfold writesKept at h
  split at h
  case h_1 | h_4 | h_5 | h_6 => exact ⟨_, rfl, keeps_of_same ⟨rfl, rfl, rfl, rfl⟩ rfl id rfl⟩
  case h_2 => exact ⟨_, rfl, keeps_of_same ⟨rfl, rfl, rfl, rfl⟩ rfl (fun _ h => nomatch h) rfl⟩
  case h_3 => exact ⟨_, rfl, keeps_of_same ⟨rfl, rfl, rfl, rfl⟩ rfl (fun _ _ => rfl) rfl⟩
  case h_7 =>
    exact ⟨_, rfl, ⟨rfl, rfl, rfl, rfl⟩, rfl, id, .inl rfl, .inl rfl, .inr ⟨rfl, rfl⟩, .inl ⟨rfl, rfl, rfl⟩⟩
  case h_8 =>
    exact ⟨_, rfl, ⟨rfl, rfl, rfl, rfl⟩, rfl, id, .inl rfl, .inl rfl, .inl rfl, .inr ⟨rfl, rfl, rfl, rfl⟩⟩
  case h_9 =>
    exact ⟨_, rfl, ⟨rfl, rfl, rfl, rfl⟩, rfl, id, .inr ⟨rfl, rfl⟩, .inl rfl, .inl rfl, .inl ⟨rfl, rfl, rfl⟩⟩
  case h_10 =>
    exact ⟨_, rfl, ⟨rfl, rfl, rfl, rfl⟩, rfl, id, .inl rfl, .inr ⟨rfl, rfl⟩, .inl rfl, .inl ⟨rfl, rfl, rfl⟩⟩
  case h_11 | h_12 => exact ⟨_, rfl, returnFromInterrupt_keeps _ s⟩
  case h_13 => exact Bool.noConfusion h

/-- Every Operation but that of a redundant index prefix. -/
theorem exec_keeps {i : Instr} (hi : ∀ x op, i = .ignoredIndexPrefix x op → isIndexPrefix op = false) (s : State) :
    ∃ t, exec i s = .next t ∧ (s.mem.wf = true → t.mem.wf = true) ∧ Keeps i s t := by
  obtain ⟨f, he, hf⟩ := exec_regular i hi
  refine ⟨f s, he s, (hf.runs s).wf, ?_⟩
  cases hw : writesKept i with
  | false => exact keeps_of_kept ((hf.runs s).kept hw)
  | true =>
    obtain ⟨t, ht, hk⟩ := exec_keeps_of_writesKept hw s
    rwa [← Host.Outcome.next.inj ((he s).symm.trans ht)] at hk

/-- The Operation that a step runs: that of a redundant prefix, or one that keeps what `Keeps` says. -/
theorem exec_redundant_or_keeps (i : Instr) (s : State) :
    (∃ op, exec i s = .next (s.redundantPrefix op))
    ∨ ∃ t, exec i s = .next t ∧ (s.mem.wf = true → t.mem.wf = true) ∧ Keeps i s t := by
  by_cases h : ∀ x op, i = .ignoredIndexPrefix x op → isIndexPrefix op = false
  · exact .inr (exec_keeps h s)
  · push Not at h
    obtain ⟨x, op, rfl, hop⟩ := h
    exact .inl ⟨op, by simp [exec, execIgnoredIndexPrefix, hop]⟩

/-! ## The services and the halted cycle -/

/-- Nothing of what `Keeps` speaks of is written, and R counts below bit 7. -/
structure Passes (s t : State) : Prop where
  inputs : Part.inputs.same s t
  wf : s.mem.wf = true → t.mem.wf = true
  vector : t.i = s.i
  bit7 : t.r.getLsbD 7 = s.r.getLsbD 7
  shadow : (t.afAlt, t.bcAlt, t.deAlt, t.hlAlt) = (s.afAlt, s.bcAlt, s.deAlt, s.hlAlt)

theorem enterInterrupt_passes (s : State) (ack : BusCall) (cost : Nat) : Passes s (s.enterInterrupt ack cost) :=
  ⟨⟨rfl, rfl, rfl, rfl⟩, enterInterrupt_wf s ack cost, rfl, (refreshInc_spec s.r).1, rfl⟩

theorem serviceNmi_passes (s : State) : Passes s s.serviceNmi := by
  obtain ⟨hin, hwf, hi, hr, hs⟩ := enterInterrupt_passes { s with intBlocked := false } .ackNmi 5
  exact ⟨hin, hwf, hi, hr, hs⟩

theorem intVector_passes (s : State) : Passes s s.intVector.2 := by
  rw [State.intVector]
  cases s.im with
  | im0 => exact ⟨⟨rfl, rfl, rfl, rfl⟩, id, rfl, rfl, rfl⟩
  | im1 => exact ⟨⟨rfl, rfl, rfl, rfl⟩, id, rfl, rfl, rfl⟩
  | im2 => exact ⟨⟨rfl, rfl, rfl, rfl⟩, id, rfl, rfl, rfl⟩

theorem Passes.trans {s t u : State} (h : Passes s t) (k : Passes t u) : Passes s u :=
  ⟨Part.same_trans h.inputs k.inputs, k.wf ∘ h.wf, k.vector.trans h.vector, k.bit7.trans h.bit7,
    k.shadow.trans h.shadow⟩

theorem serviceInt_passes (s : State) : Passes s s.serviceInt := by
  have h := (enterInterrupt_passes { s with iff1 := false, iff2 := false } .ackInt 7).trans (intVector_passes _)
  obtain ⟨hin, hwf, hi, hr, hs⟩ := h
  exact ⟨hin, hwf, hi, hr, hs⟩

theorem intVector_frame (s : State) : Frame [] [] s s.intVector.2 := by
  rw [State.intVector]
  cases s.im with
  | im0 => exact Frame.refl s
  | im1 => exact Frame.refl s
  | im2 => exact (memRead16_spec s _).2.2

theorem serviceInt_flags (s : State) : s.serviceInt.pendingIndex = s.pendingIndex ∧ s.serviceInt.iff1 = false := by
  have hv := intVector_frame ({ s with iff1 := false, iff2 := false }.enterInterrupt .ackInt 7)
  exact ⟨hv.1 .pendingIndex (by simp), hv.1 .iff1 (by simp)⟩

theorem haltedCycle_passes (s : State) : Passes s s.haltedCycle :=
  ⟨⟨rfl, rfl, rfl, rfl⟩, id, rfl, (refreshInc_spec s.r).1, rfl⟩

theorem redundantPrefix_passes (s : State) (op : Byte) : Passes s (s.redundantPrefix op) :=
  ⟨⟨rfl, rfl, rfl, rfl⟩, id, rfl, (refreshInc_spec s.r).1, rfl⟩

theorem Fetches.passes {n k : Nat} {s t : State} (h : Fetches n k s t) : Passes s t :=
  have e {α : Type} (p : State → α) := congrArg p h.rest
  ⟨⟨e State.resetRequested, e State.nmiRequested, e State.intRequested, e State.dataBus⟩,
    fun hm => (e State.mem : t.mem = s.mem) ▸ hm, e State.i, h.bit7,
    e fun s => (s.afAlt, s.bcAlt, s.deAlt, s.hlAlt)⟩

theorem Fetches.flags {n k : Nat} {s t : State} (h : Fetches n k s t) :
    t.halted = s.halted ∧ t.pendingIndex = s.pendingIndex ∧ t.iff1 = s.iff1 ∧ t.iff2 = s.iff2 :=
  have e {α : Type} (p : State → α) := congrArg p h.rest
  ⟨e State.halted, e State.pendingIndex, e State.iff1, e State.iff2⟩

theorem serviceNmi_flags (s : State) : s.serviceNmi.pendingIndex = s.pendingIndex ∧ s.serviceNmi.iff1 = false :=
  ⟨rfl, rfl⟩

/-- I, bit 7 of R and the shadow pairs keep their value, or the instruction that ran is the one that writes them. -/
def OneWriter (ran : Instr → Prop) (s t : State) : Prop :=
  (t.i = s.i ∨ ran .ldVectorA ∧ t.i = s.a)
  ∧ (t.r.getLsbD 7 = s.r.getLsbD 7 ∨ ran .ldRefreshA ∧ t.r = s.a)
  ∧ (t.afAlt = s.afAlt ∨ ran .exAfAf ∧ t.afAlt = s.af)
  ∧ (t.bcAlt = s.bcAlt ∧ t.deAlt = s.deAlt ∧ t.hlAlt = s.hlAlt
      ∨ ran .exx ∧ t.bcAlt = s.bc ∧ t.deAlt = s.de ∧ t.hlAlt = s.hl)

theorem Passes.oneWriter {s t : State} (h : Passes s t) (ran : Instr → Prop) : OneWriter ran s t := by
  obtain ⟨-, -, hi, hr, hs⟩ := h
  simp only [Prod.mk.injEq] at hs
  obtain ⟨haf, hbc, hde, hhl⟩ := hs
  exact ⟨.inl hi, .inl hr, .inl haf, .inl ⟨hbc, hde, hhl⟩⟩

/-- The registers that the writers of the shadow set read are those before the fetch. -/
theorem Keeps.oneWriter {n k : Nat} {i : Instr} {s u t : State} (h : Keeps i u t) (hf : Fetches n k s u)
    {ran : Instr → Prop} (hi : ran i) : OneWriter ran s t := by
  have e {α : Type} (p : State → α) := congrArg p hf.rest
  have bit7 (hr : t.r = u.r) : t.r.getLsbD 7 = s.r.getLsbD 7 := hr ▸ hf.bit7
  refine ⟨h.vector.imp (·.trans (e State.i)) ?_, h.refresh.imp bit7 ?_, h.afAlt.imp (·.trans (e State.afAlt)) ?_,
    h.pairsAlt.imp ?_ ?_⟩
  · exact fun ⟨hv, ht⟩ => ⟨hv ▸ hi, ht.trans (e State.a)⟩
  · exact fun ⟨hv, ht⟩ => ⟨hv ▸ hi, ht.trans (e State.a)⟩
  · exact fun ⟨hv, ht⟩ => ⟨hv ▸ hi, ht.trans (e State.af)⟩
  · exact fun ⟨hb, hd, hh⟩ => ⟨hb.trans (e State.bcAlt), hd.trans (e State.deAlt), hh.trans (e State.hlAlt)⟩
  · exact fun ⟨hv, hb, hd, hh⟩ => ⟨hv ▸ hi, hb.trans (e State.bc), hd.trans (e State.de), hh.trans (e State.hl)⟩

/-- With no prefix pending the invariant is about memory and the flip-flops alone. -/
theorem inv_of_unpended {s : State} (hm : s.mem.wf = true) (hp : s.pendingIndex = none)
    (hiff : s.iff1 = true → s.iff2 = true) : Inv s :=
  ⟨hm, fun h => absurd hp h, fun h => absurd hp h, hiff⟩

/-- A step by its cases: RESET, another service or a halted cycle, or the Operation of the instruction it runs. -/
theorem step_cases (s : State) :
    s.takesReset = true ∧ step s = .next s.serviceReset
    ∨ s.takesNmi = true ∧ step s = .next s.serviceNmi
    ∨ s.takesInt = true ∧ step s = .next s.serviceInt
    ∨ s.noSignal = true ∧ s.halted = true ∧ step s = .next s.unblocked.haltedCycle
    ∨ s.noSignal = true ∧ s.halted = false ∧ step s = exec s.runsInstr.1 s.runsInstr.2 := by
  obtain h | h | h | h := signal_cases s
  · exact .inl ⟨h, step_reset s h⟩
  · exact .inr (.inl ⟨h, step_nmi s h⟩)
  · exact .inr (.inr (.inl ⟨h, step_int s h⟩))
  · cases hh : s.halted with
    | true => exact .inr (.inr (.inr (.inl ⟨h, rfl, step_halted s h hh⟩)))
    | false => exact .inr (.inr (.inr (.inr ⟨h, rfl, step_runsInstr s h hh⟩)))

end Sys2Proof.Machine

section
open Sys2Proof Sys2Proof.Machine

/-- Settles O15: only a redundant prefix leaves one pending, with INT_BLOCKED set and in a step that is not halted;
and what sets IFF1 sets IFF2 too, or copies IFF2. -/
theorem everyStepKeepsTheInvariant : Obligations.EveryStepKeepsTheInvariant := by
  unfold Obligations.EveryStepKeepsTheInvariant
  intro s t ⟨hm, _, hph, hiff⟩ ht
  have next : ∀ {u : State}, step s = .next u → Inv u → Inv t := fun h hu =>
    (Host.Outcome.next.inj (ht.symm.trans h)) ▸ hu
  obtain ⟨-, h⟩ | ⟨hs, h⟩ | ⟨hs, h⟩ | ⟨-, hh, h⟩ | ⟨-, hh, h⟩ := step_cases s
  · exact next h (inv_of_unpended hm rfl nofun)
  · have hp : s.pendingIndex = none := by simp_all [State.takesNmi]
    obtain ⟨hsp, h1⟩ := serviceNmi_flags s
    exact next h (inv_of_unpended ((serviceNmi_passes s).wf hm) (hsp.trans hp) (by simp [h1]))
  · have hp : s.pendingIndex = none := by simp_all [State.takesInt]
    obtain ⟨hsp, h1⟩ := serviceInt_flags s
    exact next h (inv_of_unpended ((serviceInt_passes s).wf hm) (hsp.trans hp) (by simp [h1]))
  · have hp : s.pendingIndex = none := by
      by_contra hp
      simp [hph hp] at hh
    exact next h (inv_of_unpended hm hp hiff)
  · obtain ⟨n, k, hf⟩ := runsInstr_fetches s
    obtain ⟨hhalt, hpend, h1, h2⟩ := hf.flags
    have hum := hf.passes.wf hm
    generalize s.runsInstr = iu at *
    obtain ⟨i, u⟩ := iu
    have hui : u.iff1 = true → u.iff2 = true := fun h => h2.trans (hiff (h1.symm.trans h))
    obtain ⟨op, hx⟩ | ⟨v, hx, hw, hk⟩ := exec_redundant_or_keeps i u
    · exact next (h.trans hx) ⟨hum, fun _ => rfl, fun _ => hhalt.trans hh, hui⟩
    · exact next (h.trans hx) (inv_of_unpended (hw hum) (hk.pending.trans hpend) (hk.iffs hui))

/-- Settles O16: only the Operation of an instruction can write these parts, and `Keeps` says which one does. -/
theorem registersWithOneWriter : Obligations.RegistersWithOneWriter := by
  unfold Obligations.RegistersWithOneWriter
  intro s ran
  obtain ⟨hs, h⟩ | ⟨-, h⟩ | ⟨-, h⟩ | ⟨-, -, h⟩ | ⟨hs, hh, h⟩ := step_cases s
  · exact ⟨_, h, ⟨rfl, rfl, rfl, rfl⟩, fun hr => by simp [hs] at hr⟩
  · exact ⟨_, h, (serviceNmi_passes s).inputs, fun _ => (serviceNmi_passes s).oneWriter ran⟩
  · exact ⟨_, h, (serviceInt_passes s).inputs, fun _ => (serviceInt_passes s).oneWriter ran⟩
  · exact ⟨_, h, (haltedCycle_passes s).inputs, fun _ => (haltedCycle_passes s).oneWriter ran⟩
  · obtain ⟨n, k, hf⟩ := runsInstr_fetches s
    obtain ⟨op, hx⟩ | ⟨t, hx, -, hk⟩ := exec_redundant_or_keeps s.runsInstr.1 s.runsInstr.2
    · have hp := hf.passes.trans (redundantPrefix_passes _ op)
      exact ⟨_, h.trans hx, hp.inputs, fun _ => hp.oneWriter ran⟩
    · exact ⟨t, h.trans hx, Part.same_trans hf.passes.inputs hk.inputs, fun _ => hk.oneWriter hf ⟨hs, hh, rfl⟩⟩

end

/-! # How long an instruction is, and how often it counts R -/

namespace Sys2Proof.Machine
open Sys2Proof

/-- The bytes of an instruction are those fetched before its Operation and those its Operation reads at PC. The
first two bytes, which say which table it is of, are computed from its register operands. -/
theorem length_eq (i : Instr) (h : ∀ x op, i ≠ .ignoredIndexPrefix x op) :
    i.length = m1Count i + (if isIdxCb i then 2 else 0) + operandBytes i := by
  cases i
  case ignoredIndexPrefix x op => exact absurd rfl (h x op)
  case ldRR r r' => cases r <;> cases r' <;> rfl
  case incR r | decR r | ldRIndHl r | ldIndHlR r | addAR r | adcAR r | subR r | sbcAR r | andR r | xorR r | orR r
      | cpR r | ldRN r n => cases r <;> rfl
  case ldDdNn p nn | addHlSs p | incSs p | decSs p | popQq p | pushQq p => cases p <;> rfl
  case jpCcNn cc nn | callCcNn cc nn | retCc cc | jrCc cc e => cases cc <;> rfl
  case rst t =>
    clear h
    revert t
    decide
  case ldRIdxHalf x r k | ldIdxHalfR x k r => cases x <;> cases r <;> cases k <;> rfl
  case ldIdxHalfIdxHalf x k k' => cases x <;> cases k <;> cases k' <;> rfl
  case ldIdxHalfN x k _ | incIdxHalf x k | decIdxHalf x k | addAIdxHalf x k | adcAIdxHalf x k | subIdxHalf x k
      | sbcAIdxHalf x k | andIdxHalf x k | xorIdxHalf x k | orIdxHalf x k | cpIdxHalf x k =>
    cases x <;> cases k <;> rfl
  case ldIndIdxR x d r | ldRIndIdx x r d => cases x <;> cases r <;> rfl
  case addIdxPp x pp => cases x <;> cases pp <;> rfl
  case rlcIndIdxR x d r | rrcIndIdxR x d r | rlIndIdxR x d r | rrIndIdxR x d r | slaIndIdxR x d r | sraIndIdxR x d r
      | sllIndIdxR x d r | srlIndIdxR x d r | resBIndIdxR x d b r | setBIndIdxR x d b r
      | bitBIndIdx x d b z | resBIndIdx x d b | setBIndIdx x d b | ldIndIdxN x d n | incIndIdx x d | decIndIdx x d
      | addAIndIdx x d | adcAIndIdx x d | subIndIdx x d | sbcAIndIdx x d | andIndIdx x d | xorIndIdx x d
      | orIndIdx x d | cpIndIdx x d | rlcIndIdx x d | rrcIndIdx x d | rlIndIdx x d | rrIndIdx x d | slaIndIdx x d
      | sraIndIdx x d | sllIndIdx x d | srlIndIdx x d | ldIdxNn x nn | ldIndNnIdx x nn | ldIdxIndNn x nn
      | incIdx x | decIdx x | popIdx x | exIndSpIdx x | pushIdx x | jpIndIdx x | ldSpIdx x =>
    cases x <;> rfl
  all_goals rfl

theorem decodePrefixed_m1Count (x : IdxReg) (b1 b2 b3 : Byte)
    (h : ∀ y op, decodePrefixed x b1 b2 b3 ≠ .ignoredIndexPrefix y op) : m1Count (decodePrefixed x b1 b2 b3) = 2 := by
  by_cases ha : indexAffected b1 = true
  · rw [decodePrefixed]
    split
    · exact congrArg Prod.fst (decodeIdxCb_fetchShape x b2 b3)
    · next hcb => exact congrArg Prod.fst (decodeIdx_fetchShape x b1 b2 b3 ha hcb)
  · exact absurd (decodePrefixed_unaffected x b1 b2 b3 (by simpa using ha)) (h x b1)

/-- The prefixed tables have two M1 cycles (R122 to R124). -/
theorem nextInstr_m1Count {s : State} (hp : s.pendingIndex = none)
    (h : ∀ x op, s.nextInstr ≠ .ignoredIndexPrefix x op) :
    m1Count s.nextInstr =
      if s.streamByte 0 = 0xCB ∨ s.streamByte 0 = 0xED ∨ isIndexPrefix (s.streamByte 0) = true then 2 else 1 := by
  rw [nextInstr_unpended hp] at *
  by_cases hi : isIndexPrefix (s.streamByte 0) = true
  · have e := (congrArg (decodeBytes · (s.streamByte 1) (s.streamByte 2) (s.streamByte 3))
      ((isIndexPrefix_iff _).1 hi)).trans (decodeBytes_prefixByte _ _ _ _)
    rw [if_pos (.inr (.inr hi))]
    rw [e] at h ⊢
    exact decodePrefixed_m1Count _ _ _ _ h
  · rw [Bool.not_eq_true] at hi
    have e := congrArg Prod.fst (decodeBytes_fetchShape _ (s.streamByte 1) (s.streamByte 2) (s.streamByte 3) hi)
    simpa only [hi, Bool.false_eq_true, or_false, fetchShape] using e

/-- Without an ignored prefix the instruction at PC is the one the step runs. -/
theorem runsInstr_of_not_goesOn {s : State} (h : goesOn s.nextInstr = false) :
    s.runsInstr = (s.nextInstr, s.unblocked.fetchInstr s.nextInstr) := by
  have hg : ¬goesOn s.unblocked.nextInstr = true := Bool.eq_false_iff.1 h
  rw [runsInstr_eq, if_neg hg]
  rfl

end Sys2Proof.Machine

section
open Sys2Proof Sys2Proof.Machine

/-- Settles O19: PC moves by the bytes fetched and then by the operand bytes the Operation reads, and only the
fetch counts R. -/
theorem stepAdvancesPcAndR : Obligations.StepAdvancesPcAndR := by
  unfold Obligations.StepAdvancesPcAndR
  intro s hs hh hp hn
  have hg : goesOn s.nextInstr = false := by
    by_contra hg
    obtain ⟨x, op, hi, -⟩ := (goesOn_iff _).1 (by simpa using hg)
    exact hn x op hi
  have hf := fetchInstr_fetches s.unblocked s.nextInstr
  have hpu : s.unblocked.pendingIndex = none := hp
  simp only [hpu, Option.isSome_none, Bool.false_eq_true, if_false, Nat.sub_zero, withPending_self hpu] at hf
  have hi : ∀ x op, s.nextInstr = .ignoredIndexPrefix x op → isIndexPrefix op = false :=
    fun x op h => absurd h (hn x op)
  have hstep := step_runsInstr s hs hh
  rw [runsInstr_of_not_goesOn hg] at hstep
  obtain ⟨f, he, hr⟩ := exec_regular s.nextInstr hi
  obtain ⟨t, ht, -, hk⟩ := exec_keeps hi (s.unblocked.fetchInstr s.nextInstr)
  obtain rfl := Host.Outcome.next.inj ((he _).symm.trans ht)
  refine ⟨_, hstep.trans ht, fun hset => ?_, fun hne => ?_⟩
  · have hadv : pcAdvance s.nextInstr = some (operandBytes s.nextInstr) := by rw [pcAdvance, hset]; rfl
    rw [(hr.runs _).pc _ hadv, hf.pc, length_eq _ hn, BitVec.add_assoc, ← BitVec.ofNat_add]
    rfl
  · rw [hk.refresh.resolve_right fun k => hne k.1, hf.count, nextInstr_m1Count hp hn]
    rfl

end

/-! # The memory family: what is written is read back -/

namespace Sys2Proof.Machine
open Sys2Proof

theorem word_sub_two_add_one (a : Word) : a - 2 + 1 = a - 1 := by bv_omega

/-- The host's memory after a 16-bit write, byte by byte (20_memory.md R84, R86). -/
@[simp] theorem memWrite16_byteAt (s : State) (a v b : Word) :
    (s.memWrite16 a v).byteAt b =
      if b = a + 1 then hiByte v else if b = a then loByte v else s.byteAt b := by
  simp only [State.memWrite16, memWrite_byteAt]

/-- While the host names no answer, two reads answer the word its memory holds. -/
theorem wordAnswer_of_nil (s : State) (h : s.memIn = []) (k : Nat) (a : Word) : s.wordAnswer k a = s.wordAt a := by
  simp only [State.wordAnswer, State.wordAt, memAnswer_of_nil s h]

/-- A run names no answers: if the host had named none, none are named after it. -/
theorem Issued.memIn_eq_nil {cs : List BusCall} {s t : State} (h : Issued cs s t) (hs : s.memIn = []) :
    t.memIn = [] := by
  rw [h.2.2, hs, List.drop_nil]

/-- A push moved SP down by two, so reading from it answers the word pushed, and two up is the old SP. -/
theorem Pushed.popped {v : Word} {s t : State} (h : Pushed v s t) (hin : t.memIn = []) :
    t.wordAnswer 0 t.sp = v ∧ t.sp + 2 = s.sp := by
  obtain ⟨hsp, hhi, hlo⟩ := h
  rw [wordAnswer_of_nil t hin, State.wordAt, hsp, word_sub_two_add_one, hhi, hlo]
  exact ⟨join_hiByte_loByte v, BitVec.sub_add_cancel s.sp 2⟩

/-- Idle T-states and then a push, as PUSH, CALL and RST do it. -/
theorem idle_push16_spec (s : State) (a : Word) (n : Nat) (v : Word) :
    let t := (s.idle a n).push16 v
    Issued (List.replicate n (.noRequestMem a) ++ pushCalls s v) s t ∧ Frame [.sp] [s.sp - 1, s.sp - 2] s t
      ∧ Pushed v s t := by
  obtain ⟨hi, hf⟩ := idle_spec s a n
  obtain ⟨ki, kf, hp⟩ := push16_spec (s.idle a n) v
  exact ⟨hi.trans ki, hf.trans kf, hp⟩

theorem setPc_frame (s : State) (v : Word) : Frame [.pc] [] s { s with pc := v } :=
  ⟨fun p hp => by cases p <;> simp_all [Part.same] <;> rfl, fun _ _ => rfl⟩

/-- A taken call (48_jump_call_return.md R466): its return address stands pushed. -/
theorem call_spec (s : State) (nn : Word) :
    (s.call nn).pc = nn ∧ Issued (.noRequestMem (s.pc - 1) :: pushCalls s s.pc) s (s.call nn)
      ∧ Frame [.sp, .pc] [s.sp - 1, s.sp - 2] s (s.call nn) ∧ Pushed s.pc s (s.call nn) := by
  obtain ⟨hi, hf, hp⟩ := idle_push16_spec s (s.pc - 1) 1 s.pc
  exact ⟨rfl, hi, hf.trans (setPc_frame _ nn), hp⟩

end Sys2Proof.Machine

section
open Sys2Proof Sys2Proof.Machine

/-- Settles O55: the list behind the memory answers each byte as the last write left it, and a word is two
bytes at different addresses, wherever the address wraps. -/
theorem memoryReadsBackWhatWasWritten : Obligations.MemoryReadsBackWhatWasWritten := by
  unfold Obligations.MemoryReadsBackWhatWasWritten
  refine fun s a => ⟨memWrite_byteAt s a, fun v => ?_⟩
  obtain ⟨hi, -, hword⟩ := memWrite16_spec s a v
  have hread := (memRead16_spec (s.memWrite16 a v) a).1
  refine ⟨fun hs => ?_, ?_, ?_, fun b ha ha1 => ?_⟩
  · rw [hread, wordAnswer_of_nil _ (hi.memIn_eq_nil hs), hword]
  · rw [memWrite16_byteAt, if_neg (word_add_one_ne a).symm, if_pos rfl]
  · rw [memWrite16_byteAt, if_pos rfl]
  · rw [memWrite16_byteAt, if_neg ha1, if_neg ha]

/-- Settles O28: POP and RET read the word that PUSH and CALL left at SP. -/
theorem popUndoesPush : Obligations.PopUndoesPush := by
  unfold Obligations.PopUndoesPush
  refine fun s hs => ⟨fun p q => ?_, fun nn => ?_⟩
  · obtain ⟨hi, -, hp⟩ := idle_push16_spec s s.irAddr 1 (s.pairAf p)
    obtain ⟨hword, hsp⟩ := hp.popped (hi.memIn_eq_nil hs)
    obtain ⟨hv, hsp', -, -⟩ := pop16_spec ((s.idle s.irAddr 1).push16 (s.pairAf p))
    refine ⟨_, _, rfl, rfl, ?_, ?_⟩
    · rw [setPairAf_pairAf, if_pos rfl, hv, hword]
    · rw [setPairAf_sp, hsp', hsp]
  · obtain ⟨hpc, hi, -⟩ := imm16_spec s
    obtain ⟨hnn, ki, -, hp⟩ := call_spec { s.imm16 with memptr := nn } nn
    obtain ⟨hword, hsp⟩ := hp.popped (ki.memIn_eq_nil (hi.memIn_eq_nil hs))
    obtain ⟨hret, -, hsp', -, -⟩ := return_spec (State.call { s.imm16 with memptr := nn } nn)
    exact ⟨_, _, rfl, hnn, rfl, (hret.trans hword).trans hpc, hsp'.trans hsp⟩

end

/-! # Encode and decode -/

namespace Sys2Proof.Laws.RoundTrip
open Sys2Proof

/-- The family, constructor by constructor in the order of `Instr`. -/
theorem statement (i : Instr) : Statement i :=
  i.rec (motive := Statement) nop ldDdNn addHlSs ldIndBcA ldAIndBc ldIndDeA ldAIndDe ldIndNnHl ldHlIndNn
    ldIndNnA ldAIndNn incSs decSs incR incIndHl decR decIndHl ldRN ldIndHlN rlca rrca rla rra daa cpl scf ccf
    exAfAf djnz jr jrCc halt ldRR ldRIndHl ldIndHlR addAR addAIndHl addAN adcAR adcAIndHl adcAN subR subIndHl
    subN sbcAR sbcAIndHl sbcAN andR andIndHl andN xorR xorIndHl xorN orR orIndHl orN cpR cpIndHl cpN retCc
    popQq ret exx jpIndHl ldSpHl jpCcNn jpNn outIndNA inAIndN exIndSpHl exDeHl di ei callCcNn pushQq callNn
    rst rlcR rlcIndHl rrcR rrcIndHl rlR rlIndHl rrR rrIndHl slaR slaIndHl sraR sraIndHl sllR sllIndHl srlR
    srlIndHl bitBR bitBIndHl resBR resBIndHl setBR setBIndHl inRIndC inIndC outIndCR outIndCZero sbcHlSs
    adcHlSs ldIndNnDd ldDdIndNn neg retn reti imZero imOne imTwo ldVectorA ldRefreshA ldAVector ldARefresh rrd
    rld ldi cpi ini outi ldd cpd ind outd ldir cpir inir otir lddr cpdr indr otdr nopEd addIdxPp ldIdxNn
    ldIndNnIdx ldIdxIndNn incIdx decIdx incIdxHalf decIdxHalf ldIdxHalfN incIndIdx decIndIdx ldIndIdxN
    ldRIndIdx ldIndIdxR ldRIdxHalf ldIdxHalfR ldIdxHalfIdxHalf addAIdxHalf addAIndIdx adcAIdxHalf adcAIndIdx
    subIdxHalf subIndIdx sbcAIdxHalf sbcAIndIdx andIdxHalf andIndIdx xorIdxHalf xorIndIdx orIdxHalf orIndIdx
    cpIdxHalf cpIndIdx popIdx exIndSpIdx pushIdx jpIndIdx ldSpIdx ignoredIndexPrefix rlcIndIdx rlcIndIdxR
    rrcIndIdx rrcIndIdxR rlIndIdx rlIndIdxR rrIndIdx rrIndIdxR slaIndIdx slaIndIdxR sraIndIdx sraIndIdxR
    sllIndIdx sllIndIdxR srlIndIdx srlIndIdxR bitBIndIdx resBIndIdx resBIndIdxR setBIndIdx setBIndIdxR

end Sys2Proof.Laws.RoundTrip

namespace Sys2Proof
open Laws

/-- The instruction that a list of bytes begins with, were it followed by zeros. -/
def decodeFront (bs : List Byte) : Instr :=
  decodeBytes (bs.getD 0 0) (bs.getD 1 0) (bs.getD 2 0) (bs.getD 3 0)

theorem decode_eq (bs : List Byte) :
    decode bs =
      if bs.length < (encode (decodeFront bs)).length then .error .truncated
      else .ok (decodeFront bs, bs.drop (decodeFront bs).length) := rfl

/-- A well-formed instruction is what its encoding begins with, whatever follows it. -/
theorem decodeFront_encode_append {i : Instr} (h : i.wellFormed = true) (rest : List Byte) :
    decodeFront (encode i ++ rest) = i := by
  have hs := RoundTrip.statement i h (rest.getD 0 0) (rest.getD 1 0) (rest.getD 2 0)
  generalize encode i = bs at hs ⊢
  match bs, hs with
  | [], hs => exact False.elim hs
  | [_], hs | [_, _], hs | [_, _, _], hs | _ :: _ :: _ :: _ :: _, hs => exact hs

theorem Instr.length_le_encode_length (i : Instr) : i.length ≤ (encode i).length := by
  unfold Instr.length
  split
  · exact Nat.le_succ 1
  · exact le_rfl

end Sys2Proof

section
open Sys2Proof Sys2Proof.Machine

/-- Settles O2: the bytes of a well-formed instruction decode to it, whatever follows them. -/
theorem decodeInvertsEncode : Obligations.DecodeInvertsEncode := by
  unfold Obligations.DecodeInvertsEncode
  intro i rest h
  rw [decode_eq, decodeFront_encode_append h, if_neg (by simp),
    List.drop_append_of_le_length (Instr.length_le_encode_length i)]

end

namespace Sys2Proof
open Machine

/-- The bytes begin with this instruction, and it is well-formed. -/
def BeginWith (bs : List Byte) (i : Instr) : Prop := i.wellFormed = true ∧ encode i <+: bs

/-- An operand word is stored low byte first (30_encoding.md R117). -/
theorem word_prefix (bs rest : List Byte) (l h : Byte) :
    bs ++ [loByte (join h l), hiByte (join h l)] <+: bs ++ (l :: h :: rest) := by
  rw [loByte_join, hiByte_join]
  exact ⟨rest, by simp⟩

theorem decodeCb_begin (op b2 b3 : Byte) : BeginWith [0xCB, op, b2, b3] (decodeCb op) := by
  have table : ∀ op, (decodeCb op).wellFormed = true ∧ encode (decodeCb op) = [0xCB, op] := by decide +kernel
  obtain ⟨hw, he⟩ := table op
  exact ⟨hw, he ▸ ⟨[b2, b3], rfl⟩⟩

theorem decodeIdxCb_begin (x : IdxReg) (d op : Byte) :
    BeginWith [x.prefixByte, 0xCB, d, op] (decodeIdxCb x d op) := by
  rw [byte_eq_fbyte op]
  cases flagS op <;> cases flagZ op <;> cases flagY op <;> cases flagH op <;> cases flagX op <;>
    cases flagPV op <;> cases flagN op <;> cases flagC op <;> exact ⟨rfl, [], rfl⟩

/-- Most instructions of the base table hold no operand word, so the bytes after the opcode stand in them as they
are; the four prefix bytes have no row there. -/
theorem decodeBase_begin (op b1 b2 b3 : Byte) (hcb : op ≠ 0xCB) (hed : op ≠ 0xED) (hp : isIndexPrefix op = false) :
    BeginWith [op, b1, b2, b3] (decodeBase op b1 b2) := by
  rw [byte_eq_fbyte op] at *
  revert hcb hed hp
  cases flagS op <;> cases flagZ op <;> cases flagY op <;> cases flagH op <;> cases flagX op <;>
    cases flagPV op <;> cases flagN op <;> cases flagC op <;> intro hcb hed hp <;> refine ⟨rfl, ?_⟩
  any_goals exact ⟨_, rfl⟩
  any_goals apply word_prefix [_] [b3] b1 b2
  · exact absurd rfl hcb
  · exact Bool.noConfusion hp
  · exact absurd rfl hed
  · exact Bool.noConfusion hp

/-- The same of the ED table. -/
theorem decodeEd_begin (op b2 b3 : Byte) : BeginWith [0xED, op, b2, b3] (decodeEd op b2 b3) := by
  rw [byte_eq_fbyte op]
  cases flagS op <;> cases flagZ op <;> cases flagY op <;> cases flagH op <;> cases flagX op <;>
    cases flagPV op <;> cases flagN op <;> cases flagC op <;> refine ⟨rfl, ?_⟩
  any_goals exact ⟨_, rfl⟩
  all_goals exact word_prefix [_, _] [] b2 b3

/-- The same of the DD/FD table, where 0xCB has no row. -/
theorem decodeIdx_begin (x : IdxReg) (op b2 b3 : Byte) (hcb : op ≠ 0xCB) :
    BeginWith [x.prefixByte, op, b2, b3] (decodeIdx x op b2 b3) := by
  rw [byte_eq_fbyte op] at *
  revert hcb
  cases flagS op <;> cases flagZ op <;> cases flagY op <;> cases flagH op <;> cases flagX op <;>
    cases flagPV op <;> cases flagN op <;> cases flagC op <;> intro hcb
  any_goals exact ⟨rfl, _, rfl⟩
  any_goals exact absurd rfl hcb
  all_goals exact ⟨rfl, word_prefix [_, _] [] b2 b3⟩

/-- The four bytes at the front begin with the instruction they decode to. -/
theorem decodeBytes_begin (b0 b1 b2 b3 : Byte) : BeginWith [b0, b1, b2, b3] (decodeBytes b0 b1 b2 b3) := by
  by_cases hp : isIndexPrefix b0 = true
  · have hx := (isIndexPrefix_iff b0).1 hp
    generalize prefixIdx b0 = x at hx
    rw [hx, decodeBytes_prefixByte, decodePrefixed]
    split
    · next hcb => exact hcb ▸ decodeIdxCb_begin x b2 b3
    · next hcb => exact decodeIdx_begin x b1 b2 b3 hcb
  rw [Bool.not_eq_true] at hp
  by_cases hcb : b0 = 0xCB
  · exact hcb ▸ decodeCb_begin b1 b2 b3
  by_cases hed : b0 = 0xED
  · exact hed ▸ decodeEd_begin b1 b2 b3
  · exact decodeBytes_base b0 b1 b2 b3 hcb hed hp ▸ decodeBase_begin b0 b1 b2 b3 hcb hed hp

/-- No other well-formed instruction's encoding is at the front of four bytes. -/
theorem eq_decodeBytes_of_prefix {i : Instr} {b0 b1 b2 b3 : Byte} (h : i.wellFormed = true)
    (hp : encode i <+: [b0, b1, b2, b3]) : i = decodeBytes b0 b1 b2 b3 := by
  obtain ⟨rest, hr⟩ := hp
  rw [← decodeFront_encode_append h rest, hr]
  rfl

theorem Instr.length_pos (i : Instr) : 1 ≤ i.length := by
  unfold Instr.length
  split
  · exact le_rfl
  · exact List.length_pos_iff.2 (encode_ne_nil i)

end Sys2Proof

section
open Sys2Proof Sys2Proof.Machine

/-- Settles O3: table by table the bytes begin with what they decode to, and as encodings decode, with nothing
else. -/
theorem encodeInvertsDecode : Obligations.EncodeInvertsDecode := by
  unfold Obligations.EncodeInvertsDecode
  intro b0 b1 b2 b3
  obtain ⟨hw, hp⟩ := decodeBytes_begin b0 b1 b2 b3
  exact ⟨hw, hp, Instr.length_pos _, (Instr.length_le_encode_length _).trans hp.length_le,
    fun _ => eq_decodeBytes_of_prefix⟩

end

namespace Sys2Proof.Machine
open Sys2Proof

theorem exec_next (i : Instr) (s : State) : ∃ t, exec i s = .next t := by
  obtain ⟨_, op, -, -, he⟩ | ⟨f, he, -⟩ := exec_cases i
  · exact ⟨_, he s⟩
  · exact ⟨f s, he s⟩

theorem step_next (s : State) : ∃ t, step s = .next t := by
  obtain ⟨-, h⟩ | ⟨-, h⟩ | ⟨-, h⟩ | ⟨-, -, h⟩ | ⟨-, -, h⟩ := step_cases s
  · exact ⟨_, h⟩
  · exact ⟨_, h⟩
  · exact ⟨_, h⟩
  · exact ⟨_, h⟩
  · exact h ▸ exec_next _ _

/-- A well-formed instruction is at most four bytes long (30_encoding.md R110). -/
theorem encode_length_le {i : Instr} (h : i.wellFormed = true) : (encode i).length ≤ 4 := by
  have hf := decodeFront_encode_append h []
  rw [List.append_nil] at hf
  have hp := (decodeBytes_begin ((encode i).getD 0 0) ((encode i).getD 1 0) ((encode i).getD 2 0)
    ((encode i).getD 3 0)).2.length_le
  rwa [← decodeFront, hf] at hp

/-- Bytes at PC are what the stream begins with. -/
theorem State.BytesAtPc.isPrefix {s : State} {bs : List Byte} (h : s.BytesAtPc bs) {n : Nat} (hn : bs.length ≤ n) :
    bs <+: (List.range n).map s.streamByte :=
  List.prefix_iff_getElem.2 ⟨by simpa using hn, fun k hk => by simpa using (h k hk).symm⟩

/-- The instruction whose encoding stands at PC, or behind a pending prefix, is the next one. -/
theorem nextInstr_of_bytesAtPc {s : State} {i : Instr} (hw : i.wellFormed = true)
    (h : s.pendingIndex = none ∧ s.BytesAtPc (encode i)
      ∨ ∃ x, s.pendingIndex = some x ∧ encode i = x.prefixByte :: (encode i).tail
          ∧ s.BytesAtPc (encode i).tail) : s.nextInstr = i := by
  have hl := encode_length_le hw
  obtain ⟨hp, hb⟩ | ⟨x, hp, he, hb⟩ := h
  · rw [nextInstr_unpended hp]
    exact (eq_decodeBytes_of_prefix hw (hb.isPrefix hl)).symm
  · rw [State.nextInstr, hp]
    have ht : (encode i).tail.length ≤ 3 := by rw [List.length_tail]; omega
    refine (eq_decodeBytes_of_prefix hw ?_).symm
    rw [he]
    exact List.cons_prefix_cons.2 ⟨rfl, hb.isPrefix ht⟩

end Sys2Proof.Machine

section
open Sys2Proof Sys2Proof.Machine

/-- Settles O13: each kind of step answers a next state, since every Operation does. -/
theorem stepAlwaysAnswersNext : Obligations.StepAlwaysAnswersNext := by
  unfold Obligations.StepAlwaysAnswersNext
  exact ⟨step_next, exec_next⟩

/-- Settles O1, word by word. -/
theorem wordsDecodeAsTheTablesSay : Obligations.WordsDecodeAsTheTablesSay := by
  unfold Obligations.WordsDecodeAsTheTablesSay
  exact ⟨rfl, rfl, rfl, rfl, rfl, rfl, rfl, rfl, rfl, rfl, rfl, rfl, rfl, rfl, rfl, rfl⟩

/-- Settles O4: the instruction encoded at PC is the next one, and the step runs it or the one behind it. -/
theorem stepRunsTheDecodedInstruction : Obligations.StepRunsTheDecodedInstruction := by
  unfold Obligations.StepRunsTheDecodedInstruction
  intro s i hs hh hw hb s1
  have hn : s.unblocked.nextInstr = i := nextInstr_of_bytesAtPc hw hb
  rw [step_runs s hs hh]
  subst hn
  exact ⟨runNext_stops s.unblocked, runNext_goesOn s.unblocked⟩

end

namespace Sys2Proof.Machine
open Sys2Proof

/-! # The time of a step -/

theorem fetchM1s_tStates (n : Nat) (s : State) : (s.fetchM1s n).tStates = s.tStates + 4 * n := by
  induction n generalizing s with
  | zero => rfl
  | succ n ih => rw [State.fetchM1s, ih, fetchM1_tStates]; omega

/-- Each byte fetched before the Operation takes 4 T-states; of the two bytes that the DD/FD+CB table does not fetch
in M1 cycles, each takes 3 and the last one idles 2 (30_encoding.md R123). -/
theorem fetchInstr_tStates {s : State} (i : Instr) (hp : s.pendingIndex = none) :
    (s.fetchInstr i).tStates = s.tStates + 4 * (m1Count i + if isIdxCb i then 2 else 0) := by
  rw [fetchInstr_unpended hp rfl]
  split
  · have h : (s.fetchM1s (m1Count i)).fetchDisplaced.tStates = (s.fetchM1s (m1Count i)).tStates + 3 + 3 + 2 := rfl
    rw [h, fetchM1s_tStates]
    omega
  · exact fetchM1s_tStates _ s

/-- The Operation adds to T what is left of the time of its row: the row less 4 T-states for each byte fetched
before the Operation, which are the bytes of the instruction but its operand bytes. -/
def RunsInItsTime (i : Instr) (s : State) : Prop :=
  ∃ t, exec i s = .next t ∧ t.tStates + 4 * i.length = s.tStates + instrTStates i s + 4 * operandBytes i

namespace RunsInItsTime

variable {i : Instr} {s : State}

/-- An Operation whose row has one time. -/
theorem of (n : Nat) {t : State} (he : exec i s = .next t) (ht : t.tStates = s.tStates + n)
    (hn : n + 4 * i.length = instrTStates i s + 4 * operandBytes i) : RunsInItsTime i s :=
  ⟨t, he, by omega⟩

/-- An Operation whose row has two times, by the condition that makes it take the longer one. -/
theorem ofCond (m n : Nat) {c : Prop} [Decidable c] {t u : State} (he : exec i s = .next (if c then t else u))
    (hc : c ↔ takesLonger i s = true) (ht : t.tStates = s.tStates + m) (hu : u.tStates = s.tStates + n)
    (hm : m + 4 * i.length = (tStatesColumn i).1 + 4 * operandBytes i)
    (hn : n + 4 * i.length = (tStatesColumn i).2 + 4 * operandBytes i) : RunsInItsTime i s := by
  by_cases h : c
  · exact .of m (he.trans (congrArg _ (if_pos h))) ht (by rw [instrTStates, if_pos (hc.1 h), hm])
  · exact .of n (he.trans (congrArg _ (if_neg h))) hu (by rw [instrTStates, if_neg (mt hc.2 h), hn])

end RunsInItsTime

theorem sub_one_ne_zero_iff {w : Nat} (a : BitVec w) : a - 1 ≠ 0 ↔ (a != 1) = true :=
  sub_ne_zero.trans bne_iff_ne.symm

/-- A block search goes on while BC is not run out and the byte is not found (R312). -/
theorem cpStep_repeats_iff (s : State) (delta : Word) :
    (s.cpStep delta).bc ≠ 0 ∧ flagZ (s.cpStep delta).f = false
      ↔ (s.bc != 1 && s.memAnswer 0 s.hl != s.a) = true := by
  have hf : (s.cpStep delta).f = cpBlockF s.a (s.memAnswer 0 s.hl) s.f (decide (s.bc - 1 ≠ 0)) := loByte_join _ _
  have hbc : (s.cpStep delta).bc = s.bc - 1 := rfl
  rw [hf, hbc, cpBlockF_eq, flagZ_fbyte, sub_one_ne_zero_iff, Bool.and_eq_true, beq_eq_false_iff_ne, bne_iff_ne,
    bne_iff_ne, ne_comm (a := s.a)]

theorem inStep_reg_b (s : State) (delta : Word) : (s.inStep delta).reg .b = s.reg .b - 1 := hiByte_join _ _

theorem outStep_reg_b (s : State) (delta : Word) : (s.outStep delta).reg .b = s.reg .b - 1 := hiByte_join _ _

/-- The Operations by the T-states they add, in rising order, and last those with two times. A setter that chooses by
its operand leaves T alone, which its lemma says. -/
theorem exec_runsInItsTime (i : Instr) (hi : ∀ x op, i ≠ .ignoredIndexPrefix x op) (s : State) :
    RunsInItsTime i s := by
  cases i
  case ignoredIndexPrefix x op => exact absurd rfl (hi x op)
  case nop | rlca | rrca | rla | rra | daa | cpl | scf | ccf | exAfAf | halt | addAR | adcAR | subR | sbcAR | andR
      | xorR | orR | cpR | exx | jpIndHl | exDeHl | di | ei | bitBR | neg | imZero | imOne | imTwo | nopEd | addAIdxHalf
      | adcAIdxHalf | subIdxHalf | sbcAIdxHalf | andIdxHalf | xorIdxHalf | orIdxHalf | cpIdxHalf | jpIndIdx =>
    exact .of 0 rfl rfl rfl
  case ldRR | incR | decR | rlcR | rrcR | rlR | rrR | slaR | sraR | sllR | srlR | resBR | setBR | ldRIdxHalf =>
    exact .of 0 rfl (setReg_tStates _ _ _) rfl
  case incIdxHalf | decIdxHalf | ldIdxHalfR | ldIdxHalfIdxHalf => exact .of 0 rfl (setHalf_tStates _ _ _ _) rfl
  case ldVectorA | ldRefreshA | ldAVector | ldARefresh => exact .of 1 rfl rfl rfl
  case ldSpHl | ldSpIdx => exact .of 2 rfl rfl rfl
  case incSs | decSs => exact .of 2 rfl (setPairSp_tStates _ _ _) rfl
  case incIdx | decIdx => exact .of 2 rfl (setIdx_tStates _ _ _) rfl
  case ldIndBcA | ldAIndBc | ldIndDeA | ldAIndDe | ldIndHlR | addAIndHl | addAN | adcAIndHl | adcAN | subIndHl | subN
      | sbcAIndHl | sbcAN | andIndHl | andN | xorIndHl | xorN | orIndHl | orN | cpIndHl | cpN =>
    exact .of 3 rfl rfl rfl
  case ldRN | ldRIndHl => exact .of 3 rfl (setReg_tStates _ _ _) rfl
  case ldIdxHalfN => exact .of 3 rfl (setHalf_tStates _ _ _ _) rfl
  case bitBIndHl | inIndC | outIndCR | outIndCZero | bitBIndIdx => exact .of 4 rfl rfl rfl
  case inRIndC => exact .of 4 rfl (setReg_tStates _ _ _) rfl
  case ldIndHlN | ret | jpNn | retn | reti => exact .of 6 rfl rfl rfl
  case jpCcNn => exact .of 6 rfl (by split <;> rfl) rfl
  case ldDdNn => exact .of 6 rfl (setPairSp_tStates _ _ _) rfl
  case popQq => exact .of 6 rfl (setPairAf_tStates _ _ _) rfl
  case ldIdxNn | popIdx => exact .of 6 rfl (setIdx_tStates _ _ _) rfl
  case addHlSs | adcHlSs | sbcHlSs | incIndHl | decIndHl | outIndNA | inAIndN | pushQq | pushIdx | rst | rlcIndHl
      | rrcIndHl | rlIndHl | rrIndHl | slaIndHl | sraIndHl | sllIndHl | srlIndHl | resBIndHl | setBIndHl | rlcIndIdx
      | rrcIndIdx | rlIndIdx | rrIndIdx | slaIndIdx | sraIndIdx | sllIndIdx | srlIndIdx | resBIndIdx | setBIndIdx =>
    exact .of 7 rfl rfl rfl
  case rlcIndIdxR | rrcIndIdxR | rlIndIdxR | rrIndIdxR | slaIndIdxR | sraIndIdxR | sllIndIdxR | srlIndIdxR
      | resBIndIdxR | setBIndIdxR => exact .of 7 rfl (setReg_tStates _ _ _) rfl
  case addIdxPp => exact .of 7 rfl (setIdx_tStates _ _ _) rfl
  case jr | ldi | cpi | ini | outi | ldd | cpd | ind | outd => exact .of 8 rfl rfl rfl
  case ldIndNnA | ldAIndNn => exact .of 9 rfl rfl rfl
  case rrd | rld => exact .of 10 rfl rfl rfl
  case ldIndIdxN | ldIndIdxR | addAIndIdx | adcAIndIdx | subIndIdx | sbcAIndIdx | andIndIdx | xorIndIdx | orIndIdx
      | cpIndIdx => exact .of 11 rfl rfl rfl
  case ldRIndIdx => exact .of 11 rfl (setReg_tStates _ _ _) rfl
  case ldIndNnHl | ldHlIndNn | ldIndNnDd | ldIndNnIdx => exact .of 12 rfl rfl rfl
  case ldDdIndNn => exact .of 12 rfl (setPairSp_tStates _ _ _) rfl
  case ldIdxIndNn => exact .of 12 rfl (setIdx_tStates _ _ _) rfl
  case callNn => exact .of 13 rfl rfl rfl
  case exIndSpHl | incIndIdx | decIndIdx => exact .of 15 rfl rfl rfl
  case exIndSpIdx => exact .of 15 rfl (setIdx_tStates _ _ _) rfl
  case djnz =>
    exact .ofCond 9 4 rfl (by rw [setReg_reg, if_pos rfl]; exact sub_one_ne_zero_iff _) rfl rfl rfl rfl
  case jrCc cc e => exact .ofCond 8 3 rfl (by rw [jrCondHolds_eq]; rfl) rfl rfl rfl rfl
  case retCc => exact .ofCond 7 1 rfl .rfl rfl rfl rfl rfl
  case callCcNn => exact .ofCond 13 6 rfl .rfl rfl rfl rfl rfl
  case ldir | lddr => exact .ofCond 13 8 rfl (sub_one_ne_zero_iff s.bc) rfl rfl rfl rfl
  case cpir | cpdr => exact .ofCond 13 8 rfl (cpStep_repeats_iff s _) rfl rfl rfl rfl
  case inir | indr =>
    exact .ofCond 13 8 rfl (by rw [inStep_reg_b]; exact sub_one_ne_zero_iff _) rfl rfl rfl rfl
  case otir | otdr =>
    exact .ofCond 13 8 rfl (by rw [outStep_reg_b]; exact sub_one_ne_zero_iff _) rfl rfl rfl rfl

/-! ## With the fetch -/

/-- An instruction at PC, fetched and run, takes the time of its row. -/
theorem fetched_exec_tStates {s : State} {i : Instr} (hp : s.pendingIndex = none)
    (hi : ∀ x op, i ≠ .ignoredIndexPrefix x op) :
    ∃ t, exec i (s.fetchInstr i) = .next t ∧ t.tStates = s.tStates + instrTStates i (s.fetchInstr i) := by
  obtain ⟨t, he, ht⟩ := exec_runsInItsTime i hi (s.fetchInstr i)
  rw [fetchInstr_tStates i hp, length_eq i hi] at ht
  exact ⟨t, he, by omega⟩

/-- An ignored prefix is decoded from its own byte and the one it was looked at before. -/
theorem stream_of_ignored {s : State} {x : IdxReg} {op : Byte} (hp : s.pendingIndex = none)
    (hn : s.nextInstr = .ignoredIndexPrefix x op) :
    s.streamByte 0 = x.prefixByte ∧ s.streamByte 1 = op ∧ indexAffected op = false := by
  obtain ⟨hw, hb⟩ := decodeBytes_begin (s.streamByte 0) (s.streamByte 1) (s.streamByte 2) (s.streamByte 3)
  rw [← nextInstr_unpended hp, hn] at hw hb
  simp only [encode, List.cons_prefix_cons] at hb
  exact ⟨hb.1.symm, hb.2.1.symm, by simpa [Instr.wellFormed] using hw⟩

/-- An instruction that begins with no index prefix is no ignored one. -/
theorem nextInstr_ne_ignored {s : State} (hp : s.pendingIndex = none) (h : isIndexPrefix (s.streamByte 0) = false)
    (x : IdxReg) (op : Byte) : s.nextInstr ≠ .ignoredIndexPrefix x op := fun hn => by
  obtain ⟨h0, -, -⟩ := stream_of_ignored hp hn
  rw [h0] at h
  cases x <;> exact Bool.noConfusion h

/-- Behind an ignored prefix at PC, the instruction after it runs in the state after that one fetch. -/
theorem runsInstr_of_ignored {s : State} {x : IdxReg} {op : Byte} (hp : s.pendingIndex = none)
    (hn : s.nextInstr = .ignoredIndexPrefix x op) (hop : isIndexPrefix op = false) :
    let u := s.unblocked.fetchM1
    s.runsInstr = (u.nextInstr, u.fetchInstr u.nextInstr) := by
  obtain ⟨-, -, ha⟩ := stream_of_ignored hp hn
  have hu : s.unblocked.nextInstr = .ignoredIndexPrefix x op := hn
  have hf : s.unblocked.fetchInstr (.ignoredIndexPrefix x op) = s.unblocked.fetchM1 :=
    fetchInstr_unpended (s := s.unblocked) hp (ignoredIndexPrefix_fetchShape x op ha)
  rw [runsInstr_eq, hu, hf]
  exact if_pos (by rw [goesOn, hop]; rfl)

end Sys2Proof.Machine

section
open Sys2Proof Sys2Proof.Machine

/-- Settles O18: the fetch pays for every byte before the operand bytes, and the Operation for the rest of its row;
an ignored prefix is one more fetch. -/
theorem stepTakesTheTimeOfItsRow : Obligations.StepTakesTheTimeOfItsRow := by
  unfold Obligations.StepTakesTheTimeOfItsRow
  intro s hs hh hp
  have hstep := step_runsInstr s hs hh
  split
  · next x op hn =>
    obtain ⟨h0, h1, -⟩ := stream_of_ignored hp hn
    split
    · next hop =>
      have hx : isIndexPrefix (s.streamByte 0) = true := h0 ▸ by cases x <;> rfl
      exact ⟨_, (step_runs s hs hh).trans (runNext_twoPrefixes (s := s.unblocked) hp hx (h1 ▸ hop)), rfl⟩
    · next hop =>
      rw [Bool.not_eq_true] at hop
      have hu : isIndexPrefix (s.unblocked.fetchM1.streamByte 0) = false := (fetchM1_streamByte _ 0).trans h1 ▸ hop
      rw [runsInstr_of_ignored hp hn hop] at hstep ⊢
      have hpu : s.unblocked.fetchM1.pendingIndex = none := hp
      obtain ⟨t, he, ht⟩ := fetched_exec_tStates hpu (nextInstr_ne_ignored hpu hu)
      refine ⟨t, hstep.trans he, ht.trans ?_⟩
      rw [fetchM1_tStates, Nat.add_assoc]
      rfl
  · next hn =>
    have hi : ∀ x op, s.nextInstr ≠ .ignoredIndexPrefix x op := fun x op h => hn x op h
    have hg : goesOn s.nextInstr = false := by
      rw [Bool.eq_false_iff, Ne, goesOn_iff]
      exact fun ⟨x, op, h, _⟩ => hi x op h
    rw [runsInstr_of_not_goesOn hg] at hstep ⊢
    have hpu : s.unblocked.pendingIndex = none := hp
    obtain ⟨t, he, ht⟩ := fetched_exec_tStates hpu hi
    exact ⟨t, hstep.trans he, ht⟩

end

/-! # ALU and flags -/

namespace Sys2Proof
open Sys2Proof.Machine

/-! ## Shifts lose a bit (R182) -/

/-- The four shifts among the operations of the CB table (46_rotate_shift.md R410 to R413). -/
def RotOp.IsShift (k : RotOp) : Prop := k = .sla ∨ k = .sra ∨ k = .sll ∨ k = .srl

/-- A shift loses a bit: two bytes go to the same one (R182). -/
theorem shift_collides {k : RotOp} (hk : k.IsShift) :
    ∃ v w : Byte, v ≠ w ∧ ∀ c c' : Bool, (rot k v c).1 = (rot k w c').1 := by
  rcases hk with rfl | rfl | rfl | rfl
  · exact ⟨0x00, 0x80, by decide, fun _ _ => rfl⟩
  · exact ⟨0x00, 0x01, by decide, fun _ _ => rfl⟩
  · exact ⟨0x00, 0x80, by decide, fun _ _ => rfl⟩
  · exact ⟨0x00, 0x01, by decide, fun _ _ => rfl⟩

/-- Only RL and RR look at the carry. -/
theorem rot_carry_irrelevant {k : RotOp} (hl : k ≠ .rl) (hr : k ≠ .rr) (v : Byte) (c d : Bool) :
    rot k v c = rot k v d := by
  cases k
  case rl => exact absurd rfl hl
  case rr => exact absurd rfl hr
  all_goals rfl

theorem shift_ignores_carry {k : RotOp} (hk : k.IsShift) (v : Byte) (c d : Bool) :
    rot k v c = rot k v d := by
  refine rot_carry_irrelevant ?_ ?_ v c d <;> rintro rfl <;> simp [RotOp.IsShift] at hk

/-- What a shift makes of a byte does not tell the byte, so no shift gives back every byte. -/
theorem shift_not_undone {k k' : RotOp} (hk : k.IsShift) (hk' : k'.IsShift) :
    ∃ v : Byte, ∀ c d : Bool, (rot k' (rot k v c).1 d).1 ≠ v := by
  obtain ⟨v, w, hne, hvw⟩ := shift_collides hk
  by_contra! h
  obtain ⟨c, d, hv⟩ := h v
  obtain ⟨c', d', hw⟩ := h w
  rw [← hvw c c', shift_ignores_carry hk' _ d' d] at hw
  exact hne (hv.symm.trans hw)

/-! ## The rotates in numbers -/

theorem byteOf_toNat (n : Nat) : (byteOf n).toNat = n % 256 := BitVec.toNat_ofNat n 8

theorem decide_toNat (p : Prop) [Decidable p] : (decide p).toNat = if p then 1 else 0 := Bool.cond_decide p 1 0

theorem getLsbD_toNat (v : Byte) (k : Nat) : (v.getLsbD k).toNat = v.toNat / 2 ^ k % 2 := Nat.toNat_testBit _ _

/-- A byte and a carry are known by their numbers. -/
theorem byteCarry_ext {p q : Byte × Bool} (h : p.1.toNat = q.1.toNat) (hc : p.2.toNat = q.2.toNat) : p = q :=
  Prod.ext (BitVec.eq_of_toNat_eq h) (by revert hc; cases p.2 <;> cases q.2 <;> decide)

theorem rlc_toNat (v : Byte) (c : Bool) :
    (rot .rlc v c).1.toNat = 2 * (v.toNat % 128) + v.toNat / 128 ∧ (rot .rlc v c).2.toNat = v.toNat / 128 := by
  have hv := v.isLt
  rw [rot_eq, rotBits, byteOf_toNat, decide_toNat]
  split <;> omega

theorem rrc_toNat (v : Byte) (c : Bool) :
    (rot .rrc v c).1.toNat = v.toNat / 2 + 128 * (v.toNat % 2) ∧ (rot .rrc v c).2.toNat = v.toNat % 2 := by
  have hv := v.isLt
  rw [rot_eq, rotBits, byteOf_toNat, decide_toNat]
  split <;> omega

theorem rl_toNat (v : Byte) (c : Bool) :
    (rot .rl v c).1.toNat = 2 * (v.toNat % 128) + c.toNat ∧ (rot .rl v c).2.toNat = v.toNat / 128 := by
  have hv := v.isLt
  have hc := c.toNat_lt
  rw [rot_eq, rotBits, byteOf_toNat, decide_toNat]
  split <;> omega

theorem rr_toNat (v : Byte) (c : Bool) :
    (rot .rr v c).1.toNat = v.toNat / 2 + 128 * c.toNat ∧ (rot .rr v c).2.toNat = v.toNat % 2 := by
  have hv := v.isLt
  have hc := c.toNat_lt
  rw [rot_eq, rotBits, byteOf_toNat, decide_toNat]
  split <;> omega

theorem rr_rl (v : Byte) (c : Bool) : rot .rr (rot .rl v c).1 (rot .rl v c).2 = (v, c) := by
  have hv := v.isLt
  have hc := c.toNat_lt
  obtain ⟨h1, h2⟩ := rl_toNat v c
  obtain ⟨k1, k2⟩ := rr_toNat (rot .rl v c).1 (rot .rl v c).2
  apply byteCarry_ext <;> simp only <;> omega

theorem rl_rr (v : Byte) (c : Bool) : rot .rl (rot .rr v c).1 (rot .rr v c).2 = (v, c) := by
  have hv := v.isLt
  have hc := c.toNat_lt
  obtain ⟨h1, h2⟩ := rr_toNat v c
  obtain ⟨k1, k2⟩ := rl_toNat (rot .rr v c).1 (rot .rr v c).2
  apply byteCarry_ext <;> simp only <;> omega

theorem rrc_rlc (v : Byte) (c d : Bool) : rot .rrc (rot .rlc v c).1 d = (v, v.getLsbD 7) := by
  have hv := v.isLt
  obtain ⟨h, -⟩ := rlc_toNat v c
  obtain ⟨k1, k2⟩ := rrc_toNat (rot .rlc v c).1 d
  apply byteCarry_ext <;> simp only [getLsbD_toNat] <;> omega

theorem rlc_rrc (v : Byte) (c d : Bool) : rot .rlc (rot .rrc v c).1 d = (v, v.getLsbD 0) := by
  have hv := v.isLt
  obtain ⟨h, -⟩ := rrc_toNat v c
  obtain ⟨k1, k2⟩ := rlc_toNat (rot .rrc v c).1 d
  apply byteCarry_ext <;> simp only [getLsbD_toNat, Nat.pow_zero, Nat.div_one] <;> omega

/-! ## Identities of the 8-bit functions (R189) -/

theorem cp8_eq (a b : Byte) : cp8 a b = (aluBits .cp a b false).2 := congrArg Prod.snd (alu_eq .cp a b 0)

theorem flagZ_cp8 (a b : Byte) : flagZ (cp8 a b) = true ↔ a = b := by
  simp [cp8_eq, aluBits]

theorem flagC_cp8 (a b : Byte) : flagC (cp8 a b) = true ↔ a.toNat < b.toNat := by
  simp [cp8_eq, aluBits]

theorem flagN_add8 (a b : Byte) (c : Bool) : flagN (add8 a b c).2 = false := flagN_fbyte ..

theorem flagN_sub8 (a b : Byte) (c : Bool) : flagN (sub8 a b c).2 = true := flagN_fbyte ..

theorem add8_result_eq_sub8_neg (a b : Byte) :
    (add8 a b false).1 = (sub8 a (BitVec.ofNat 8 ((256 - b.toNat) % 256)) false).1 := by
  rw [add8_eq, sub8_eq]
  simp only [addBytes, subBytes]
  apply BitVec.eq_of_toNat_eq
  simp; omega

/-- Only ADC and SBC look at F for their result, and at its C alone. -/
theorem alu_result_congr (op : AluOp) (a v : Byte) {f g : Byte}
    (h : flagC f = flagC g ∨ op ≠ .adc ∧ op ≠ .sbc) : (alu op a v f).1 = (alu op a v g).1 := by
  rcases h with h | ⟨ha, hs⟩
  · rw [alu_eq, alu_eq, h]
  · cases op
    case adc => exact absurd rfl ha
    case sbc => exact absurd rfl hs
    all_goals rfl

/-- Only RL and RR look at F for their result, and at its C alone. -/
theorem rot_result_congr {k : RotOp} (v : Byte) {f g : Byte} (h : flagC f = flagC g ∨ k ≠ .rl ∧ k ≠ .rr) :
    (rot k v (flagC f)).1 = (rot k v (flagC g)).1 := by
  rcases h with h | ⟨hl, hr⟩
  · rw [h]
  · rw [rot_carry_irrelevant hl hr v (flagC f) (flagC g)]

/-! ## Decimal adjust -/

/-- DAA after an addition of decimal bytes: the decimal sum, and C its carry. -/
theorem daa_of_add {a v : Byte} (c : Bool) (ha : isBcd a = true) (hv : isBcd v = true) :
    let d := daaBits (addBytes a v c).1 (addBytes a v c).2
    isBcd d.1 = true ∧ bcdValue d.1 + 100 * (flagC d.2).toNat = bcdValue a + bcdValue v + c.toNat := by
  have hc := c.toNat_lt
  simp only [isBcd, Bool.and_eq_true, decide_eq_true_eq] at ha hv
  obtain ⟨ha1, ha0⟩ := ha
  obtain ⟨hv1, hv0⟩ := hv
  simp only [daaBits, addBytes, flagH_fbyte, flagC_fbyte, flagN_fbyte, decide_eq_true_eq, Bool.false_eq_true,
    if_false, isBcd, bcdValue, byteOf_toNat, BitVec.toNat_ofNat, Bool.and_eq_true, ← Bool.decide_or, decide_toNat]
  split <;> split <;> omega

/-- DAA after a subtraction of decimal bytes: the decimal difference, and C its borrow. -/
theorem daa_of_sub {a v : Byte} (c : Bool) (ha : isBcd a = true) (hv : isBcd v = true) :
    let d := daaBits (subBytes a v c).1 (subBytes a v c).2
    isBcd d.1 = true ∧ bcdValue d.1 + bcdValue v + c.toNat = bcdValue a + 100 * (flagC d.2).toNat := by
  have hc := c.toNat_lt
  have hr : (a - v - BitVec.ofNat 8 c.toNat).toNat = (a.toNat + 512 - v.toNat - c.toNat) % 256 := by
    have h := v.isLt
    simp; omega
  simp only [isBcd, Bool.and_eq_true, decide_eq_true_eq] at ha hv
  obtain ⟨ha1, ha0⟩ := ha
  obtain ⟨hv1, hv0⟩ := hv
  simp only [daaBits, subBytes, flagH_fbyte, flagC_fbyte, flagN_fbyte, decide_eq_true_eq, if_true, isBcd, bcdValue,
    byteOf_toNat, hr, Bool.and_eq_true, ← Bool.decide_or, decide_toNat]
  split <;> split <;> omega

end Sys2Proof

namespace Sys2Proof.Machine
open Sys2Proof

/-! ## Writing F, HL and an index register -/

theorem setF_spec (s : State) (v : Byte) :
    (s.setF v).f = v ∧ Issued [] s (s.setF v) ∧ Frame [.f] [] s (s.setF v) :=
  ⟨setF_f s v, ⟨rfl, rfl, rfl⟩, fun p hp => by cases p <;> simp_all [Part.same], fun _ _ => rfl⟩

theorem setHl_spec (s : State) (v : Word) :
    Issued [] s { s with hl := v } ∧ Frame [.reg .h, .reg .l] [] s { s with hl := v } := by
  refine ⟨⟨rfl, rfl, rfl⟩, fun p hp => ?_, fun _ _ => rfl⟩
  cases p with
  | reg r => cases r <;> simp_all [Part.same] <;> rfl
  | _ => simp [Part.same] <;> rfl

theorem setIdx_spec (s : State) (x : IdxReg) (v : Word) :
    (s.setIdx x v).idx x = v ∧ Issued [] s (s.setIdx x v) ∧ Frame (idxParts x) [] s (s.setIdx x v) := by
  refine ⟨by simp, by cases x <;> exact ⟨rfl, rfl, rfl⟩, fun p hp => ?_, fun b _ => by simp⟩
  cases p with
  | half y k => cases k <;> simp_all [Part.same, idxParts, State.half]
  | _ => simp [Part.same]

/-- A frame need not list what reads as before. -/
theorem Frame.without {ps qs : List Part} {as : List Word} {s t : State} {q : Part} (h : Frame ps as s t)
    (hq : q.same s t) (hp : ∀ p ∈ ps, p = q ∨ p ∈ qs) : Frame qs as s t := by
  refine ⟨fun p n => ?_, h.2⟩
  by_cases hpq : p = q
  · exact hpq ▸ hq
  · exact h.1 p fun m => (hp p m).elim hpq n

/-! ## Operations on one byte and F -/

section OneByte
variable {i : Instr} {s : State} {op : Byte → Byte → Byte × Byte} {w : Byte × Byte}

/-- An instruction that runs a byte operation on a register. -/
theorem completes_modifyReg {r : Reg8} (he : exec i s = .next (s.modifyReg r op)) (hw : op (s.reg r) s.f = w) :
    Completes i s [.reg r, .f] [] [] fun t => (t.reg r, t.f) = w := by
  obtain ⟨hr, hf, hi, hfr⟩ := modifyReg_spec s r op
  exact ⟨_, he, hi, hfr, (Prod.ext hr hf).trans hw⟩

/-- An instruction that runs a byte operation on an index half. -/
theorem completes_modifyHalf {x : IdxReg} {h : Half} (he : exec i s = .next (s.modifyHalf x h op))
    (hw : op (s.half x h) s.f = w) : Completes i s [.half x h, .f] [] [] fun t => (t.half x h, t.f) = w := by
  obtain ⟨hr, hf, hi, hfr⟩ := modifyHalf_spec s x h op
  exact ⟨_, he, hi, hfr, (Prod.ext hr hf).trans hw⟩

end OneByte

/-- An accumulator rotate is a byte operation on A. -/
theorem rotateA_eq (s : State) (k : RotOp) : s.rotateA k = s.modifyReg .a (rotAF k) := rfl

/-- An instruction that rotates A. -/
theorem completes_rotateA {i : Instr} {s : State} {k : RotOp} (he : exec i s = .next (s.rotateA k)) :
    Completes i s [.reg .a, .f] [] [] fun t => t.a = (rotBits k s.a (flagC s.f)).1
      ∧ t.f = fbyte (flagS s.f) (flagZ s.f) (t.a.getLsbD 5) false (t.a.getLsbD 3) (flagPV s.f) false
          (rotBits k s.a (flagC s.f)).2 := by
  obtain ⟨t, hx, hi, hfr, hw⟩ := completes_modifyReg (rotateA_eq s k ▸ he) (rotAF_eq k s.a s.f)
  obtain ⟨ha, hf⟩ := Prod.mk.inj hw
  rw [reg_a] at ha
  exact ⟨t, hx, hi, hfr, ha, ha ▸ hf⟩

/-! ## The CB table on a byte -/

/-- What the CB table's operation computes, as the model writes it. -/
def CbOp.apply : CbOp → Byte → Byte → Byte × Byte
  | .rot k => rotF k
  | .res b => resBit b
  | .set b => setBit b

theorem one_shiftLeft_getLsbD : ∀ b n : Fin 8, ((1 : Byte) <<< b.val).getLsbD n = decide (n = b) := by decide

theorem resBit_getLsbD (b n : Fin 8) (v f : Byte) :
    (resBit b v f).1.getLsbD n = if n = b then false else v.getLsbD n := by
  rw [resBit, BitVec.getLsbD_and, BitVec.getLsbD_not, one_shiftLeft_getLsbD]
  split <;> simp [*]

theorem setBit_getLsbD (b n : Fin 8) (v f : Byte) :
    (setBit b v f).1.getLsbD n = if n = b then true else v.getLsbD n := by
  rw [setBit, BitVec.getLsbD_or, one_shiftLeft_getLsbD]
  split <;> simp [*]

theorem cbResult_apply (op : CbOp) (v f : Byte) : CbResult op v f (op.apply v f).1 (op.apply v f).2 := by
  cases op with
  | rot k => simp only [CbOp.apply, rotF_eq, CbResult, and_self]
  | res b => exact ⟨fun n => resBit_getLsbD b n v f, rfl⟩
  | set b => exact ⟨fun n => setBit_getLsbD b n v f, rfl⟩

theorem exec_cbR (op : CbOp) (r : Reg8) (s : State) : exec (cbR op r) s = .next (s.modifyReg r op.apply) := by
  cases op with
  | rot k => cases k <;> rfl
  | res b => rfl
  | set b => rfl

/-! ## The 16-bit additions -/

theorem wide_spec (s : State) (dest : Word) :
    (s.wide dest).memptr = dest + 1 ∧ Issued (List.replicate 7 (.noRequestMem s.irAddr)) s (s.wide dest)
      ∧ Frame [.memptr] [] s (s.wide dest) := by
  obtain ⟨hi, hf⟩ := idle_spec s s.irAddr 7
  exact ⟨rfl, hi, (hf.trans (setMemptr_frame _ (dest + 1))).mono (by simp) (by simp)⟩

/-- An instruction that leaves a 16-bit result in HL and its flags in F. -/
theorem completes_wideHl {i : Instr} {s : State} {p : Word × Byte}
    (he : exec i s = .next { (s.wide s.hl).setF p.2 with hl := p.1 }) :
    Completes i s [.reg .h, .reg .l, .f, .memptr] [] (List.replicate 7 (.noRequestMem (join s.i s.r))) fun t =>
      t.hl = p.1 ∧ t.f = p.2 ∧ t.memptr = s.hl + 1 := by
  obtain ⟨hm, hi, hf⟩ := wide_spec s s.hl
  obtain ⟨hv, ki, kf⟩ := setF_spec (s.wide s.hl) p.2
  obtain ⟨li, lf⟩ := setHl_spec ((s.wide s.hl).setF p.2) p.1
  exact ⟨_, he, (hi.trans ki).trans li, ((hf.trans kf).trans lf).mono (by simp) (by simp), rfl, hv, hm⟩

/-- The same in an index register. -/
theorem completes_wideIdx {i : Instr} {s : State} {x : IdxReg} {p : Word × Byte}
    (he : exec i s = .next (((s.wide (s.idx x)).setF p.2).setIdx x p.1)) :
    Completes i s (.f :: .memptr :: idxParts x) [] (List.replicate 7 (.noRequestMem (join s.i s.r))) fun t =>
      t.idx x = p.1 ∧ t.f = p.2 ∧ t.memptr = s.idx x + 1 := by
  obtain ⟨hm, hi, hf⟩ := wide_spec s (s.idx x)
  obtain ⟨hv, ki, kf⟩ := setF_spec (s.wide (s.idx x)) p.2
  obtain ⟨lv, li, lf⟩ := setIdx_spec ((s.wide (s.idx x)).setF p.2) x p.1
  exact ⟨_, he, (hi.trans ki).trans li, ((hf.trans kf).trans lf).mono (by simp +contextual) (by simp), lv,
    by rw [setIdx_f, hv], by rw [setIdx_memptr, setF_memptr, hm]⟩

/-! ## The 8-bit ALU in its five forms -/

theorem exec_aluR (op : AluOp) (r : Reg8) (s : State) : exec (aluR op r) s = .next (s.aluReg op r) := by
  cases op <;> rfl

theorem exec_aluIndHl (op : AluOp) (s : State) : exec (aluIndHl op) s = .next (s.aluHl op) := by
  cases op <;> rfl

theorem exec_aluN (op : AluOp) (n : Byte) (s : State) : exec (aluN op n) s = .next (s.aluImm op n) := by
  cases op <;> rfl

theorem exec_aluIdxHalf (op : AluOp) (x : IdxReg) (h : Half) (s : State) :
    exec (aluIdxHalf op x h) s = .next (s.aluHalf op x h) := by
  cases op <;> rfl

theorem exec_aluIndIdx (op : AluOp) (x : IdxReg) (d : Byte) (s : State) :
    exec (aluIndIdx op x d) s = .next (s.aluIdx op x d) := by
  cases op <;> rfl

/-- Once the operand is read, an ALU operation is a byte operation on A. -/
theorem aluApply_eq (s : State) (op : AluOp) (v : Byte) :
    s.aluApply op v = s.modifyReg .a fun a f => alu op a v f := rfl

theorem aluApply_result (s : State) (op : AluOp) (v : Byte) :
    ((s.aluApply op v).a, (s.aluApply op v).f) = aluBits op s.a v (flagC s.f) := by
  rw [aluApply_eq]
  obtain ⟨ha, hf, -, -⟩ := modifyReg_spec s .a fun a f => alu op a v f
  exact (Prod.ext ha hf).trans (alu_eq op s.a v s.f)

/-- In each of the five forms A and F take the operation's result on the operand. -/
theorem exec_of_isAluForm {op : AluOp} {s : State} {i : Instr} {v : Byte} (h : IsAluForm op s i v) :
    ∃ t, exec i s = .next t ∧ (t.a, t.f) = aluBits op s.a v (flagC s.f) := by
  rcases h with ⟨r, rfl, rfl⟩ | ⟨rfl, rfl⟩ | rfl | ⟨x, k, rfl, rfl⟩ | ⟨x, d, rfl, rfl⟩
  · exact ⟨_, exec_aluR op r s, aluApply_result s op _⟩
  · exact ⟨_, exec_aluIndHl op s, aluApply_result (s.memRead s.hl).2 op _⟩
  · exact ⟨_, exec_aluN op v s, aluApply_result s.imm8 op v⟩
  · exact ⟨_, exec_aluIdxHalf op x k s, aluApply_result s op _⟩
  · obtain ⟨hv, -, -, -, hf⟩ := readIdx_spec s x d
    have ha : (s.readIdx x d).2.a = s.a := hf.1 (.reg .a) (by simp)
    have hfl : (s.readIdx x d).2.f = s.f := hf.1 .f (by simp)
    refine ⟨_, exec_aluIndIdx op x d s, ?_⟩
    rw [State.aluIdx, aluApply_result, hv, ha, hfl]

theorem exec_daa (s : State) : ∃ t, exec .daa s = .next t ∧ (t.a, t.f) = daaBits s.a s.f := by
  obtain ⟨t, ht, -, -, hp⟩ := completes_modifyReg (i := .daa) (r := .a) rfl (daaF_eq s.a s.f)
  exact ⟨t, ht, hp⟩

/-- DAA behind an ALU operation works on the A and F that the operation left. -/
theorem exec_alu_daa {op : AluOp} {s : State} {i : Instr} {v : Byte} (h : IsAluForm op s i v) :
    let p := aluBits op s.a v (flagC s.f)
    ∃ t u, exec i s = .next t ∧ exec .daa t = .next u ∧ u.a = (daaBits p.1 p.2).1 ∧ u.f = (daaBits p.1 p.2).2 := by
  obtain ⟨t, ht, hp⟩ := exec_of_isAluForm h
  obtain ⟨u, hu, hq⟩ := exec_daa t
  rw [← hp]
  exact ⟨t, u, ht, hu, congrArg Prod.fst hq, congrArg Prod.snd hq⟩

end Sys2Proof.Machine

section
open Sys2Proof Sys2Proof.Machine

/-- Settles O53: the rotates in numbers; and a shift sends two bytes to one, so that nothing that looks at the
byte alone undoes it. -/
theorem rotateRoundTrips : Obligations.RotateRoundTrips := by
  unfold Obligations.RotateRoundTrips
  refine ⟨fun v c => ⟨rr_rl v c, rl_rr v c⟩, fun v c d => ⟨rrc_rlc v c d, rlc_rrc v c d⟩,
    fun k k' hk hk' => shift_not_undone hk hk', ?_⟩
  decide

/-- Settles O54: N tells ADD8 and SUB8 apart; and a result looks at F only where the function is given its
carry, or N, H and C. -/
theorem arithmeticIdentities : Obligations.ArithmeticIdentities := by
  unfold Obligations.ArithmeticIdentities
  refine ⟨fun a b => ⟨flagZ_cp8 a b, flagC_cp8 a b, add8_result_eq_sub8_neg a b, fun h => ?_⟩,
    ⟨0, 0, by decide⟩, fun a b c => ⟨flagN_add8 a b c, flagN_sub8 a b c⟩, fun op a v f g h => ?_,
    fun k v f g h => ?_, fun v f g => ⟨rfl, rfl⟩, fun a f g hn hh hc => ?_⟩
  · have hn := congrArg flagN h
    rw [flagN_add8, flagN_sub8] at hn
    exact Bool.noConfusion hn
  · exact alu_result_congr op a v h
  · exact ⟨rot_result_congr v h, rot_result_congr v h⟩
  · simp only [daaF, hn, hh, hc]

/-- Settles O34: each is the byte operation of R177 or R178 on a register or an index half. -/
theorem incDecRegisters : Obligations.IncDecRegisters := by
  unfold Obligations.IncDecRegisters
  exact fun s => ⟨fun r => completes_modifyReg rfl (inc8_eq _ _), fun r => completes_modifyReg rfl (dec8_eq _ _),
    fun x h => completes_modifyHalf rfl (inc8_eq _ _), fun x h => completes_modifyHalf rfl (dec8_eq _ _)⟩

/-- Settles O41: each is a rotate of A, with the flags of R181. -/
theorem accumulatorRotates : Obligations.AccumulatorRotates := by
  unfold Obligations.AccumulatorRotates
  exact fun s => ⟨completes_rotateA rfl, completes_rotateA rfl, completes_rotateA rfl, completes_rotateA rfl⟩

/-- Settles O42: each is a byte operation on the register; RES and SET write F back as it was. -/
theorem cbOnRegisters : Obligations.CbOnRegisters := by
  unfold Obligations.CbOnRegisters
  intro s op r
  obtain ⟨hw, hf, hi, hfr⟩ := modifyReg_spec s r op.apply
  refine ⟨_, exec_cbR op r s, hi, ?_,
    (congrArg₂ (CbResult op (s.reg r) s.f) hw hf).mpr (cbResult_apply op (s.reg r) s.f)⟩
  cases op with
  | rot k => exact hfr
  | res b => exact hfr.without (q := .f) hf (by simp)
  | set b => exact hfr.without (q := .f) hf (by simp)

/-- Settles O45: the reads, idle T-states and MEMPTR of each form, and then F takes `bitF`. -/
theorem bitTests : Obligations.BitTests := by
  unfold Obligations.BitTests
  intro s b flags
  refine ⟨fun r => ?_, ?_, fun x d z => ?_⟩
  · obtain ⟨hv, hi, hf⟩ := setF_spec s (bitF b (s.reg r) (s.reg r) s.f)
    exact ⟨_, rfl, hi, hf, hv.trans (bitF_eq ..)⟩
  · obtain ⟨hi, hf⟩ := memRead_spec s s.hl
    obtain ⟨ki, kf⟩ := idle_spec (s.memRead s.hl).2 s.hl 1
    obtain ⟨hv, li, lf⟩ := setF_spec ((s.memRead s.hl).2.idle s.hl 1)
      (bitF b (s.memAnswer 0 s.hl) (hiByte s.memptr) s.f)
    exact ⟨_, rfl, (hi.trans ki).trans li, (hf.trans kf).trans lf, hv.trans (bitF_eq ..)⟩
  · intro ea
    have hm := setMemptr_frame s ea
    obtain ⟨hi, hf⟩ := memRead_spec { s with memptr := ea } ea
    obtain ⟨ki, kf⟩ := idle_spec (State.memRead { s with memptr := ea } ea).2 ea 1
    obtain ⟨hv, li, lf⟩ := setF_spec ((State.memRead { s with memptr := ea } ea).2.idle ea 1)
      (bitF b (s.memAnswer 0 ea) (hiByte ea) s.f)
    exact ⟨_, rfl, (hi.trans ki).trans li, (((hm.trans hf).trans kf).trans lf).mono (by simp) (by simp),
      hv.trans (bitF_eq ..), rfl⟩

/-- Settles O39: the idle T-states and MEMPTR of `wide`, then F and the pair take the result. -/
theorem wideArithmetic : Obligations.WideArithmetic := by
  unfold Obligations.WideArithmetic
  intro s calls parts onHl
  refine ⟨fun ss => ?_, fun ss => ?_, fun ss => ?_, fun x pp => ?_⟩
  · rw [← add16_eq]; exact completes_wideHl rfl
  · rw [← adc16_eq]; exact completes_wideHl rfl
  · rw [← sbc16_eq]; exact completes_wideHl rfl
  · rw [← add16_eq]; exact completes_wideIdx rfl

/-- Settles O37: DAA works on the A and F the operation left, and corrects the sum or difference. -/
theorem daaCorrectsDecimalArithmetic : Obligations.DaaCorrectsDecimalArithmetic := by
  unfold Obligations.DaaCorrectsDecimalArithmetic
  intro s op i v h ha hv carry becomes
  obtain ⟨t, u, ht, hu, hua, huf⟩ := exec_alu_daa h
  refine ⟨?_, ?_, ?_, ?_⟩ <;> rintro rfl <;> refine ⟨t, u, ht, hu, ?_⟩ <;> rw [hua, huf]
  · exact daa_of_add false ha hv
  · exact daa_of_add (flagC s.f) ha hv
  · exact daa_of_sub false ha hv
  · exact daa_of_sub (flagC s.f) ha hv

end

/-! # The 8-bit loads -/

namespace Sys2Proof.Machine
open Sys2Proof

/-! ## Writing one register, one index half, I or R -/

theorem setReg_spec (s : State) (r : Reg8) (v : Byte) :
    (s.setReg r v).reg r = v ∧ Issued [] s (s.setReg r v) ∧ Frame [.reg r] [] s (s.setReg r v) := by
  refine ⟨by simp, by cases r <;> exact ⟨rfl, rfl, rfl⟩, fun p hp => ?_, fun b _ => by simp⟩
  cases p <;> simp_all [Part.same]

theorem setHalf_spec (s : State) (x : IdxReg) (h : Half) (v : Byte) :
    (s.setHalf x h v).half x h = v ∧ Issued [] s (s.setHalf x h v) ∧ Frame [.half x h] [] s (s.setHalf x h v) := by
  refine ⟨by simp, by cases x <;> cases h <;> exact ⟨rfl, rfl, rfl⟩, fun p hp => ?_, fun b _ => by simp⟩
  cases p <;> simp_all [Part.same]

theorem setVector_frame (s : State) (v : Byte) : Frame [.vector] [] s { s with i := v } :=
  ⟨fun p hp => by cases p <;> simp_all [Part.same] <;> rfl, fun _ _ => rfl⟩

theorem setRefresh_frame (s : State) (v : Byte) : Frame [.refresh] [] s { s with r := v } :=
  ⟨fun p hp => by cases p <;> simp_all [Part.same] <;> rfl, fun _ _ => rfl⟩

/-! ## Loading and storing A -/

theorem loadA_spec (s : State) (a : Word) :
    (s.loadA a).a = s.memAnswer 0 a ∧ (s.loadA a).memptr = a + 1 ∧ Issued [.readMem a] s (s.loadA a)
      ∧ Frame [.reg .a, .memptr] [] s (s.loadA a) := by
  obtain ⟨hi, hf⟩ := memRead_spec s a
  obtain ⟨hv, ki, kf⟩ := setReg_spec (s.memRead a).2 .a (s.memAnswer 0 a)
  exact ⟨hv, rfl, hi.trans ki, (hf.trans kf).trans (setMemptr_frame _ (a + 1))⟩

theorem storeA_spec (s : State) (a : Word) :
    (s.storeA a).byteAt a = s.a ∧ (s.storeA a).memptr = join s.a (loByte (a + 1))
      ∧ Issued [.writeMem a s.a] s (s.storeA a) ∧ Frame [.memptr] [a] s (s.storeA a) := by
  obtain ⟨hi, hf, hv⟩ := memWrite_spec s a s.a
  exact ⟨hv, rfl, hi, hf.trans (setMemptr_frame _ _)⟩

/-- `LD A,I` and `LD A,R` are a byte operation on A that looks at IFF2 (R231, R234). -/
theorem loadAInternal_eq (s : State) (v : Byte) :
    s.loadAInternal v = s.modifyReg .a fun _ f => (v, ldAIRF v f s.iff2) := rfl

theorem loadAInternal_spec (s : State) (v : Byte) :
    (s.loadAInternal v).a = v
      ∧ (s.loadAInternal v).f
        = fbyte (v.getLsbD 7) (v == 0) (v.getLsbD 5) false (v.getLsbD 3) s.iff2 false (flagC s.f)
      ∧ Issued [] s (s.loadAInternal v) ∧ Frame [.reg .a, .f] [] s (s.loadAInternal v) := by
  obtain ⟨ha, hf, hi, hfr⟩ := modifyReg_spec s .a fun _ f => (v, ldAIRF v f s.iff2)
  rw [← loadAInternal_eq] at ha hf hi hfr
  exact ⟨ha, hf.trans (ldAIRF_eq v s.f s.iff2), hi, hfr⟩

/-! ## Stores at (IDX+d) -/

theorem exec_ldIndIdxR (x : IdxReg) (d : Byte) (r : Reg8) (s : State) :
    exec (.ldIndIdxR x d r) s = .next ((s.idxOperand x d).2.memWrite (s.idxAddr x d) (s.reg r)) := by
  rw [← (idxOperand_spec s x d).1]
  rfl

/-- The state in which `LD (IDX+d),n` stores n: d and n are read, two T-states idle at the address of n, and MEMPTR
takes the address (R237). -/
def State.idxImmOperand (s : State) (x : IdxReg) (d : Byte) : State :=
  { s.imm16.idle (s.imm16.pc - 1) 2 with memptr := s.idxAddr x d }

theorem exec_ldIndIdxN (x : IdxReg) (d n : Byte) (s : State) :
    exec (.ldIndIdxN x d n) s = .next ((s.idxImmOperand x d).memWrite (s.idxAddr x d) n) := by
  have ha : (s.imm16.idle (s.imm16.pc - 1) 2).idxAddr x d = s.idxAddr x d := by
    rw [idle_idxAddr, State.imm16, imm8_idxAddr, imm8_idxAddr]
  rw [State.idxImmOperand, ← ha]
  rfl

theorem idxImmOperand_spec (s : State) (x : IdxReg) (d : Byte) :
    (s.idxImmOperand x d).memptr = s.idxAddr x d ∧ (s.idxImmOperand x d).pc = s.pc + 2
      ∧ Issued (nnCalls s ++ List.replicate 2 (.noRequestMem (s.pc + 1))) s (s.idxImmOperand x d)
      ∧ Frame [.memptr, .pc] [] s (s.idxImmOperand x d) := by
  obtain ⟨hpc, hi, hf⟩ := imm16_spec s
  obtain ⟨ki, kf⟩ := idle_spec s.imm16 (s.pc + 1) 2
  have heq : s.idxImmOperand x d = { s.imm16.idle (s.pc + 1) 2 with memptr := s.idxAddr x d } := by
    rw [State.idxImmOperand, hpc, word_add_two_sub_one]
  rw [heq]
  exact ⟨rfl, hpc, hi.trans ki, ((hf.trans kf).trans (setMemptr_frame _ _)).mono (by simp) (by simp)⟩

/-! ## Instructions that end in one write -/

section OneWrite
variable {i : Instr} {s u : State} {ps : List Part} {cs : List BusCall} {post : State → Prop} {v : Byte}

/-- An instruction that ends in writing one part, once its callbacks are issued. -/
theorem completes_write {p : Part} {t : State} (he : exec i s = .next t) (hi : Issued cs s u) (hf : Frame ps [] s u)
    (ki : Issued [] u t) (kf : Frame [p] [] u t) (hp : post t) : Completes i s (p :: ps) [] cs post :=
  ⟨t, he, List.append_nil cs ▸ hi.trans ki, (hf.trans kf).mono (by simp [or_comm]) (by simp), hp⟩

/-- An instruction that ends in loading a register. -/
theorem completes_setReg {r : Reg8} (he : exec i s = .next (u.setReg r v)) (hi : Issued cs s u)
    (hf : Frame ps [] s u) (hp : (u.setReg r v).reg r = v → post (u.setReg r v)) :
    Completes i s (.reg r :: ps) [] cs post := by
  obtain ⟨hv, ki, kf⟩ := setReg_spec u r v
  exact completes_write he hi hf ki kf (hp hv)

/-- An instruction that ends in loading an index half. -/
theorem completes_setHalf {x : IdxReg} {h : Half} (he : exec i s = .next (u.setHalf x h v)) (hi : Issued cs s u)
    (hf : Frame ps [] s u) (hp : (u.setHalf x h v).half x h = v → post (u.setHalf x h v)) :
    Completes i s (.half x h :: ps) [] cs post := by
  obtain ⟨hv, ki, kf⟩ := setHalf_spec u x h v
  exact completes_write he hi hf ki kf (hp hv)

/-- An instruction that ends in storing a byte. -/
theorem completes_memWrite {a : Word} (he : exec i s = .next (u.memWrite a v)) (hi : Issued cs s u)
    (hf : Frame ps [] s u) (hp : (u.memWrite a v).byteAt a = v → post (u.memWrite a v)) :
    Completes i s ps [a] (cs ++ [.writeMem a v]) post := by
  obtain ⟨ki, kf, hv⟩ := memWrite_spec u a v
  exact ⟨_, he, hi.trans ki, (hf.trans kf).mono (by simp) (by simp), hp hv⟩

end OneWrite

end Sys2Proof.Machine

section
open Sys2Proof Sys2Proof.Machine

/-- Settles O21: each loads one register or index half, the immediate forms after the read of the operand byte. -/
theorem registerLoads : Obligations.RegisterLoads := by
  unfold Obligations.RegisterLoads
  intro s
  obtain ⟨hpc, hi, hf⟩ := imm8_spec s
  exact ⟨fun r r' => completes_setReg rfl (.refl s) (.refl s) id,
    fun r n => completes_setReg rfl hi hf fun hv => ⟨hv, (setReg_pc ..).trans hpc⟩,
    fun x r h => completes_setReg rfl (.refl s) (.refl s) id,
    fun x h r => completes_setHalf rfl (.refl s) (.refl s) id,
    fun x h h' => completes_setHalf rfl (.refl s) (.refl s) id,
    fun x h n => completes_setHalf rfl hi hf fun hv => ⟨hv, (setHalf_pc ..).trans hpc⟩⟩

/-- Settles O22: the read answers the byte, at (IDX+d) and (nn) after the reads of the operand bytes, and then the
register takes it. -/
theorem memoryLoads : Obligations.MemoryLoads := by
  unfold Obligations.MemoryLoads
  intro s
  refine ⟨fun r => ?_, fun x r d => ?_, ?_, ?_, fun nn => ?_⟩
  · obtain ⟨hi, hf⟩ := memRead_spec s s.hl
    exact completes_setReg rfl hi hf id
  · obtain ⟨hv, hm, hpc, hi, hf⟩ := readIdx_spec s x d
    exact completes_setReg rfl hi hf fun hr =>
      ⟨hr.trans hv, (setReg_memptr ..).trans hm, (setReg_pc ..).trans hpc⟩
  · obtain ⟨hv, hm, hi, hf⟩ := loadA_spec s s.bc
    exact ⟨_, rfl, hi, hf, hv, hm⟩
  · obtain ⟨hv, hm, hi, hf⟩ := loadA_spec s s.de
    exact ⟨_, rfl, hi, hf, hv, hm⟩
  · obtain ⟨hpc, hi, hf⟩ := imm16_spec s
    obtain ⟨hv, hm, ki, kf⟩ := loadA_spec s.imm16 nn
    exact ⟨_, rfl, hi.trans ki, (hf.trans kf).mono (by simp) (by simp), hv.trans (hi.memAnswer hf 0 nn), hm, hpc⟩

/-- Settles O23: the operand bytes are read, and then the byte is written at the computed address. -/
theorem memoryStores : Obligations.MemoryStores := by
  unfold Obligations.MemoryStores
  intro s
  refine ⟨fun r => ?_, fun n => ?_, fun x d r => ?_, fun x d n => ?_, ?_, ?_, fun nn => ?_⟩
  · exact completes_memWrite rfl (.refl s) (.refl s) id
  · obtain ⟨hpc, hi, hf⟩ := imm8_spec s
    exact completes_memWrite rfl hi hf fun hv => ⟨hv, hpc⟩
  · obtain ⟨-, hm, hpc, hi, hf⟩ := idxOperand_spec s x d
    exact completes_memWrite (exec_ldIndIdxR x d r s) hi hf fun hv => ⟨hv, hm, hpc⟩
  · obtain ⟨hm, hpc, hi, hf⟩ := idxImmOperand_spec s x d
    exact completes_memWrite (exec_ldIndIdxN x d n s) hi hf fun hv => ⟨hv, hm, hpc⟩
  · obtain ⟨hv, hm, hi, hf⟩ := storeA_spec s s.bc
    exact ⟨_, rfl, hi, hf, hv, hm⟩
  · obtain ⟨hv, hm, hi, hf⟩ := storeA_spec s s.de
    exact ⟨_, rfl, hi, hf, hv, hm⟩
  · obtain ⟨hpc, hi, hf⟩ := imm16_spec s
    obtain ⟨hv, hm, ki, kf⟩ := storeA_spec s.imm16 nn
    rw [State.imm16, imm8_a, imm8_a] at hv hm ki
    exact ⟨_, rfl, hi.trans ki, (hf.trans kf).mono (by simp) (by simp), hv, hm, hpc⟩

/-- Settles O24: one idle T-state at I : R, and then A and F take the byte operation, or I or R takes A. -/
theorem loadsOfIAndR : Obligations.LoadsOfIAndR := by
  unfold Obligations.LoadsOfIAndR
  intro s flags idle
  obtain ⟨hi, hf⟩ := idle_spec s s.irAddr 1
  refine ⟨?_, ?_, completes_write rfl hi hf ⟨rfl, rfl, rfl⟩ (setVector_frame _ s.a) rfl,
    completes_write rfl hi hf ⟨rfl, rfl, rfl⟩ (setRefresh_frame _ s.a) rfl⟩
  · obtain ⟨ha, hfl, ki, kf⟩ := loadAInternal_spec (s.idle s.irAddr 1) s.i
    exact ⟨_, rfl, hi.trans ki, hf.trans kf, ha, hfl⟩
  · obtain ⟨ha, hfl, ki, kf⟩ := loadAInternal_spec (s.idle s.irAddr 1) s.r
    exact ⟨_, rfl, hi.trans ki, hf.trans kf, ha, hfl⟩

end

/-! # The 16-bit loads, PUSH and POP -/

namespace Sys2Proof.Machine
open Sys2Proof

/-! ## Writing one pair -/

theorem setPairSp_spec (s : State) (p : PairSp) (v : Word) :
    (s.setPairSp p v).pairSp p = v ∧ Issued [] s (s.setPairSp p v) ∧ Frame (pairSpParts p) [] s (s.setPairSp p v) := by
  refine ⟨by simp, by cases p <;> exact ⟨rfl, rfl, rfl⟩, fun q hq => ?_, fun b _ => by simp⟩
  cases q with
  | reg r => cases p <;> cases r <;> simp_all [Part.same, pairSpParts] <;> rfl
  | sp => cases p <;> simp_all [Part.same, pairSpParts] <;> rfl
  | _ => simp [Part.same]

theorem setPairAf_spec (s : State) (p : PairAf) (v : Word) :
    (s.setPairAf p v).pairAf p = v ∧ Issued [] s (s.setPairAf p v) ∧ Frame (pairAfParts p) [] s (s.setPairAf p v) := by
  refine ⟨by simp, by cases p <;> exact ⟨rfl, rfl, rfl⟩, fun q hq => ?_, fun b _ => by simp⟩
  cases q with
  | reg r => cases p <;> cases r <;> simp_all [Part.same, pairAfParts] <;> rfl
  | f => cases p <;> simp_all [Part.same, pairAfParts] <;> rfl
  | _ => simp [Part.same]

/-! ## A word in memory at nn -/

theorem loadWord_spec (s : State) (nn : Word) :
    (s.loadWord nn).1 = s.wordAnswer 2 nn ∧ (s.loadWord nn).2.memptr = nn + 1 ∧ (s.loadWord nn).2.pc = s.pc + 2
      ∧ Issued (nnCalls s ++ [.readMem nn, .readMem (nn + 1)]) s (s.loadWord nn).2
      ∧ Frame [.memptr, .pc] [] s (s.loadWord nn).2 := by
  obtain ⟨hpc, hi, hf⟩ := imm16_spec s
  obtain ⟨hv, ki, kf⟩ := memRead16_spec s.imm16 nn
  have hw : s.imm16.wordAnswer 0 nn = s.wordAnswer 2 nn := by
    simp only [State.wordAnswer, hi.memAnswer hf]; rfl
  exact ⟨hv.trans hw, rfl, hpc, hi.trans ki,
    ((hf.trans kf).trans (setMemptr_frame _ (nn + 1))).mono (by simp) (by simp)⟩

theorem storeWord_spec (s : State) (nn v : Word) :
    (s.storeWord nn v).byteAt nn = loByte v ∧ (s.storeWord nn v).byteAt (nn + 1) = hiByte v
      ∧ (s.storeWord nn v).memptr = nn + 1 ∧ (s.storeWord nn v).pc = s.pc + 2
      ∧ Issued (nnCalls s ++ [.writeMem nn (loByte v), .writeMem (nn + 1) (hiByte v)]) s (s.storeWord nn v)
      ∧ Frame [.memptr, .pc] [nn, nn + 1] s (s.storeWord nn v) := by
  obtain ⟨hpc, hi, hf⟩ := imm16_spec s
  obtain ⟨ki, kf, -⟩ := memWrite16_spec s.imm16 nn v
  have hm := setMemptr_frame (s.imm16.memWrite16 nn v) (nn + 1)
  refine ⟨?_, ?_, rfl, hpc, hi.trans ki, ((hf.trans kf).trans hm).mono (by simp) (by simp)⟩
  · exact (memWrite16_byteAt ..).trans <| (if_neg (word_add_one_ne nn).symm).trans (if_pos rfl)
  · exact (memWrite16_byteAt ..).trans (if_pos rfl)

/-! ## Instructions of this family by their last operation -/

/-- An instruction that ends in loading a pair: `hw` is what a `set…_spec` lemma says of that last write. -/
theorem completes_load {i : Instr} {s u t : State} {ps qs : List Part} {cs : List BusCall} {post : State → Prop}
    {value : Prop} (he : exec i s = .next t) (hi : Issued cs s u) (hf : Frame ps [] s u)
    (hw : value ∧ Issued [] u t ∧ Frame qs [] u t) (hp : value → post t) : Completes i s (ps ++ qs) [] cs post := by
  obtain ⟨hv, ki, kf⟩ := hw
  exact ⟨t, he, List.append_nil cs ▸ hi.trans ki, hf.trans kf, hp hv⟩

/-- An instruction that stores a word at nn. -/
theorem completes_storeWord {i : Instr} {s : State} {nn v : Word} (he : exec i s = .next (s.storeWord nn v)) :
    Completes i s [.memptr, .pc] [nn, nn + 1]
      (nnCalls s ++ [.writeMem nn (loByte v), .writeMem (nn + 1) (hiByte v)]) fun t =>
      t.byteAt nn = loByte v ∧ t.byteAt (nn + 1) = hiByte v ∧ t.memptr = nn + 1 ∧ t.pc = s.pc + 2 := by
  obtain ⟨hlo, hhi, hm, hpc, hi, hf⟩ := storeWord_spec s nn v
  exact ⟨_, he, hi, hf, hlo, hhi, hm, hpc⟩

/-- An instruction that pushes a word after one idle T-state at I : R. -/
theorem completes_push {i : Instr} {s : State} {v : Word} (he : exec i s = .next ((s.idle s.irAddr 1).push16 v)) :
    Completes i s [.sp] [s.sp - 1, s.sp - 2] (.noRequestMem (join s.i s.r) :: pushCalls s v) (Pushed v s) :=
  ⟨_, he, idle_push16_spec s s.irAddr 1 v⟩

end Sys2Proof.Machine

section
open Sys2Proof Sys2Proof.Machine

/-- Settles O25: the operand bytes are read, or two T-states idle, the memory forms then read the word and set MEMPTR,
and last the pair takes the word. -/
theorem pairLoads : Obligations.PairLoads := by
  unfold Obligations.PairLoads
  intro s
  obtain ⟨hpc, hi, hf⟩ := imm16_spec s
  obtain ⟨ki, kf⟩ := idle_spec s s.irAddr 2
  refine ⟨fun dd nn => ?_, fun x nn => ?_, ?_, fun x => ?_, fun nn => ?_, fun dd nn => ?_, fun x nn => ?_⟩
  · exact completes_load rfl hi hf (setPairSp_spec _ dd nn) fun hv => ⟨hv, (setPairSp_pc ..).trans hpc⟩
  · exact completes_load rfl hi hf (setIdx_spec _ x nn) fun hv => ⟨hv, (setIdx_pc ..).trans hpc⟩
  · exact completes_write rfl ki kf ⟨rfl, rfl, rfl⟩ (setSp_frame _ s.hl) rfl
  · exact completes_write rfl ki kf ⟨rfl, rfl, rfl⟩ (setSp_frame _ (s.idx x)) rfl
  · obtain ⟨hw, hm, hpc, hi, hf⟩ := loadWord_spec s nn
    obtain ⟨ki, kf⟩ := setHl_spec (s.loadWord nn).2 (s.loadWord nn).1
    exact ⟨_, rfl, hi.trans ki, (hf.trans kf).mono (by simp) (by simp), hw, hm, hpc⟩
  · obtain ⟨hw, hm, hpc, hi, hf⟩ := loadWord_spec s nn
    exact completes_load rfl hi hf (setPairSp_spec _ dd _) fun hv =>
      ⟨hv.trans hw, (setPairSp_memptr ..).trans hm, (setPairSp_pc ..).trans hpc⟩
  · obtain ⟨hw, hm, hpc, hi, hf⟩ := loadWord_spec s nn
    exact completes_load rfl hi hf (setIdx_spec _ x _) fun hv =>
      ⟨hv.trans hw, (setIdx_memptr ..).trans hm, (setIdx_pc ..).trans hpc⟩

/-- Settles O26: each is the same store of a word at nn. -/
theorem pairStores : Obligations.PairStores := by
  unfold Obligations.PairStores
  exact fun s => ⟨fun _ => completes_storeWord rfl, fun _ _ => completes_storeWord rfl,
    fun _ _ => completes_storeWord rfl⟩

/-- Settles O27: a push is one idle T-state and then `Push16`; after `Pop16` the pair takes the word. -/
theorem pushesAndPops : Obligations.PushesAndPops := by
  unfold Obligations.PushesAndPops
  intro s pushes pops
  obtain ⟨hw, hsp, hi, hf⟩ := pop16_spec s
  exact ⟨fun qq => completes_push rfl, fun x => completes_push rfl,
    fun qq => completes_load rfl hi hf (setPairAf_spec _ qq _) fun hv => ⟨hv.trans hw, (setPairAf_sp ..).trans hsp⟩,
    fun x => completes_load rfl hi hf (setIdx_spec _ x _) fun hv => ⟨hv.trans hw, (setIdx_sp ..).trans hsp⟩⟩

end

/-! # The exchanges, block transfers and block searches -/

namespace Sys2Proof.Machine
open Sys2Proof

/-! ## The exchanges -/

theorem setAfAlt_frame (s : State) (v : Word) : Frame [.afAlt] [] s { s with afAlt := v } :=
  ⟨fun p hp => by cases p <;> simp_all [Part.same] <;> rfl, fun _ _ => rfl⟩

theorem setShadowPairs_frame (s : State) (b d h : Word) :
    Frame [.bcAlt, .deAlt, .hlAlt] [] s { s with bcAlt := b, deAlt := d, hlAlt := h } :=
  ⟨fun p hp => by cases p <;> simp_all [Part.same] <;> rfl, fun _ _ => rfl⟩

@[simp] theorem setIdx_wordAt (s : State) (x : IdxReg) (v a : Word) : (s.setIdx x v).wordAt a = s.wordAt a := by
  simp only [State.wordAt, setIdx_byteAt]

/-- The three general pairs, written one after the other. -/
def State.setPairs (s : State) (b d h : Word) : State :=
  ((s.setPairSp .bc b).setPairSp .de d).setPairSp .hl h

theorem setPairs_spec (s : State) (b d h : Word) :
    Issued [] s (s.setPairs b d h)
      ∧ Frame [.reg .b, .reg .c, .reg .d, .reg .e, .reg .h, .reg .l] [] s (s.setPairs b d h) := by
  obtain ⟨-, hi, hf⟩ := setPairSp_spec s .bc b
  obtain ⟨-, ki, kf⟩ := setPairSp_spec (s.setPairSp .bc b) .de d
  obtain ⟨-, li, lf⟩ := setPairSp_spec ((s.setPairSp .bc b).setPairSp .de d) .hl h
  exact ⟨(hi.trans ki).trans li, (hf.trans kf).trans lf⟩

/-- The callbacks of exchanging a word with the top of the stack (R303). -/
def topCalls (s : State) (v : Word) : List BusCall :=
  [.readMem s.sp, .readMem (s.sp + 1), .noRequestMem (s.sp + 1), .writeMem (s.sp + 1) (hiByte v),
    .writeMem s.sp (loByte v), .noRequestMem s.sp, .noRequestMem s.sp]

theorem exchangeTop_spec (s : State) (v : Word) :
    let p := s.exchangeTop v
    p.1 = s.wordAnswer 0 s.sp ∧ p.2.memptr = s.wordAnswer 0 s.sp ∧ p.2.wordAt s.sp = v
      ∧ Issued (topCalls s v) s p.2 ∧ Frame [.memptr] [s.sp, s.sp + 1] s p.2 := by
  obtain ⟨hw, hi, hf⟩ := memRead16_spec s s.sp
  obtain ⟨ki, kf⟩ := idle_spec (s.memRead16 s.sp).2 (s.sp + 1) 1
  let u := (s.memRead16 s.sp).2.idle (s.sp + 1) 1
  obtain ⟨li, lf, hhi⟩ := memWrite_spec u (s.sp + 1) (hiByte v)
  let w := u.memWrite (s.sp + 1) (hiByte v)
  obtain ⟨mi, mf, hlo⟩ := memWrite_spec w s.sp (loByte v)
  obtain ⟨ni, nf⟩ := idle_spec (w.memWrite s.sp (loByte v)) s.sp 2
  have hword : (w.memWrite s.sp (loByte v)).wordAt s.sp = v := by
    rw [State.wordAt, hlo, mf.2 _ (by simp), hhi, join_hiByte_loByte]
  exact ⟨hw, hw, hword, (((hi.trans ki).trans li).trans mi).trans ni,
    (((((hf.trans kf).trans lf).trans mf).trans nf).trans (setMemptr_frame _ _)).mono (by simp) (by simp)⟩

/-! ## The repeat of a block instruction (R305, R308, R312) -/

/-- The repeat of a block transfer or search: MEMPTR is left at the second byte of the instruction. -/
def State.repeatWithMemptr (s : State) (a : Word) : State :=
  { s.repeatBlock a with memptr := (s.repeatBlock a).pc + 1 }

theorem repeatWithMemptr_spec (s : State) (a : Word) :
    (s.repeatWithMemptr a).pc = s.pc - 2 ∧ (s.repeatWithMemptr a).memptr = s.pc - 1
      ∧ Issued (List.replicate 5 (.noRequestMem a)) s (s.repeatWithMemptr a)
      ∧ Frame [.pc, .memptr] [] s (s.repeatWithMemptr a) := by
  obtain ⟨hi, hf⟩ := idle_spec s a 5
  exact ⟨rfl, word_sub_two_add_one s.pc, hi,
    (hf.trans (setPc_frame _ (s.pc - 2))).trans (setMemptr_frame _ (s.pc - 2 + 1))⟩

/-- BC is not 0 after the decrement if it was not 1 before it. -/
theorem decide_bc_left (s : State) : decide (s.bc - 1 ≠ 0) = decide (s.bc ≠ 1) :=
  decide_eq_decide.2 sub_ne_zero

/-! ## Block transfers -/

/-- The parts that an iteration of a block transfer writes. -/
def ldParts : List Part := [.reg .b, .reg .c, .reg .d, .reg .e, .reg .h, .reg .l, .f]

/-- The callbacks of an iteration of a block transfer. -/
def ldCalls (s : State) : List BusCall :=
  [.readMem s.hl, .writeMem s.de (s.memAnswer 0 s.hl), .noRequestMem s.de, .noRequestMem s.de]

/-- An iteration of a block transfer has been made (R306). -/
def Moved (s : State) (delta : Word) (t : State) : Prop :=
  let v := s.memAnswer 0 s.hl
  t.byteAt s.de = v ∧ t.hl = s.hl + delta ∧ t.de = s.de + delta ∧ t.bc = s.bc - 1
    ∧ t.f = fbyte (flagS s.f) (flagZ s.f) ((v + s.a).getLsbD 1) false ((v + s.a).getLsbD 3)
        (decide (s.bc ≠ 1)) false (flagC s.f)

/-- Read, write and two idle T-states, and then F and the three pairs. -/
theorem ldStep_eq (s : State) (delta : Word) :
    s.ldStep delta
      = ((((s.memRead s.hl).2.memWrite s.de (s.memAnswer 0 s.hl)).idle s.de 2).setF
          (ldBlockF s.a (s.memAnswer 0 s.hl) s.f (decide (s.bc - 1 ≠ 0)))).setPairs
          (s.bc - 1) (s.de + delta) (s.hl + delta) := rfl

theorem ldStep_spec (s : State) (delta : Word) :
    Moved s delta (s.ldStep delta) ∧ Issued (ldCalls s) s (s.ldStep delta)
      ∧ Frame ldParts [s.de] s (s.ldStep delta) := by
  have hflags : (s.ldStep delta).f = ldBlockF s.a (s.memAnswer 0 s.hl) s.f (decide (s.bc - 1 ≠ 0)) := loByte_join _ _
  rw [decide_bc_left, ldBlockF_eq] at hflags
  obtain ⟨hi, hf⟩ := memRead_spec s s.hl
  obtain ⟨ki, kf, hv⟩ := memWrite_spec (s.memRead s.hl).2 s.de (s.memAnswer 0 s.hl)
  refine ⟨⟨hv, rfl, rfl, rfl, hflags⟩, ?_⟩
  rw [ldStep_eq]
  obtain ⟨li, lf⟩ := idle_spec (State.memWrite ..) s.de 2
  obtain ⟨-, mi, mf⟩ := setF_spec (State.idle ..) _
  obtain ⟨ni, nf⟩ := setPairs_spec (State.setF ..) _ _ _
  exact ⟨(((hi.trans ki).trans li).trans mi).trans ni,
    ((((hf.trans kf).trans lf).trans mf).trans nf).mono (by simp [ldParts]) (by simp)⟩

/-- A repeating transfer repeats unless BC was 1. -/
theorem ldRepeat_eq (s : State) (delta : Word) :
    s.ldRepeat delta = if s.bc = 1 then s.ldStep delta else (s.ldStep delta).repeatWithMemptr s.de := by
  rw [← ite_not]
  exact if_congr (sub_ne_zero (a := s.bc)) rfl rfl

section
variable {i : Instr} {s : State} {delta : Word}

theorem completes_ldStep (he : exec i s = .next (s.ldStep delta)) :
    Completes i s ldParts [s.de] (ldCalls s) (Moved s delta) := by
  obtain ⟨hm, hi, hf⟩ := ldStep_spec s delta
  exact ⟨_, he, hi, hf, hm⟩

theorem completes_ldRepeat (he : exec i s = .next (s.ldRepeat delta)) :
    if s.bc = 1 then Completes i s ldParts [s.de] (ldCalls s) (Moved s delta)
    else Completes i s (.pc :: .memptr :: ldParts) [s.de]
      (ldCalls s ++ List.replicate 5 (.noRequestMem s.de)) fun t =>
      Moved s delta t ∧ t.pc = s.pc - 2 ∧ t.memptr = s.pc - 1 := by
  rw [ldRepeat_eq] at he
  split
  · next h => exact completes_ldStep (he.trans (congrArg _ (if_pos h)))
  · next h =>
    obtain ⟨hm, hi, hf⟩ := ldStep_spec s delta
    obtain ⟨hpc, hmem, ki, kf⟩ := repeatWithMemptr_spec (s.ldStep delta) s.de
    exact ⟨_, he.trans (congrArg _ (if_neg h)), hi.trans ki, (hf.trans kf).mono (by simp [ldParts]) (by simp),
      hm, hpc, hmem⟩

end

/-! ## Block searches -/

/-- The parts that an iteration of a block search writes, its MEMPTR line left out. -/
def cpParts : List Part := [.reg .b, .reg .c, .reg .h, .reg .l, .f]

/-- The callbacks of an iteration of a block search. -/
def cpCalls (s : State) : List BusCall := .readMem s.hl :: List.replicate 5 (.noRequestMem s.hl)

/-- An iteration of a block search has been made (R310). -/
def Compared (s : State) (delta : Word) (t : State) : Prop :=
  let v := s.memAnswer 0 s.hl
  let half := decide (s.a.toNat % 16 < v.toNat % 16)
  let k := s.a - v - (if half then 1 else 0)
  t.hl = s.hl + delta ∧ t.bc = s.bc - 1
    ∧ t.f = fbyte ((s.a - v).getLsbD 7) (s.a == v) (k.getLsbD 1) half (k.getLsbD 3) (decide (s.bc ≠ 1)) true
        (flagC s.f)

/-- Read and five idle T-states, and then F, BC and HL. -/
theorem cpStep_eq (s : State) (delta : Word) :
    s.cpStep delta
      = ((((s.memRead s.hl).2.idle s.hl 5).setF
          (cpBlockF s.a (s.memAnswer 0 s.hl) s.f (decide (s.bc - 1 ≠ 0)))).setPairSp .bc (s.bc - 1)).setPairSp .hl
          (s.hl + delta) := rfl

theorem cpStep_spec (s : State) (delta : Word) :
    Compared s delta (s.cpStep delta) ∧ Issued (cpCalls s) s (s.cpStep delta)
      ∧ Frame cpParts [] s (s.cpStep delta) := by
  have hflags : (s.cpStep delta).f = cpBlockF s.a (s.memAnswer 0 s.hl) s.f (decide (s.bc - 1 ≠ 0)) := loByte_join _ _
  rw [decide_bc_left, cpBlockF_eq] at hflags
  refine ⟨⟨rfl, rfl, hflags⟩, ?_⟩
  rw [cpStep_eq]
  obtain ⟨hi, hf⟩ := memRead_spec s s.hl
  obtain ⟨ki, kf⟩ := idle_spec (s.memRead s.hl).2 s.hl 5
  obtain ⟨-, li, lf⟩ := setF_spec (State.idle ..) _
  obtain ⟨-, mi, mf⟩ := setPairSp_spec (State.setF ..) .bc _
  obtain ⟨-, ni, nf⟩ := setPairSp_spec (State.setPairSp ..) .hl _
  exact ⟨(((hi.trans ki).trans li).trans mi).trans ni,
    ((((hf.trans kf).trans lf).trans mf).trans nf).mono (by simp [pairSpParts, cpParts]) (by simp)⟩

/-- A repeating search repeats unless BC was 1 or the byte is A. -/
theorem cpRepeat_eq (s : State) (delta : Word) :
    s.cpRepeat delta = if s.bc = 1 ∨ s.a = s.memAnswer 0 s.hl then s.cpSingle delta
      else (s.cpStep delta).repeatWithMemptr s.hl := by
  have hc : (s.cpStep delta).bc ≠ 0 ∧ flagZ (s.cpStep delta).f = false
      ↔ ¬(s.bc = 1 ∨ s.a = s.memAnswer 0 s.hl) := by
    rw [cpStep_repeats_iff, Bool.and_eq_true, bne_iff_ne, bne_iff_ne, not_or, ne_comm (a := s.memAnswer 0 s.hl)]
  rw [← ite_not]
  exact if_congr hc rfl rfl

section
variable {i : Instr} {s : State} {delta : Word}

theorem completes_cpSingle (he : exec i s = .next (s.cpSingle delta)) :
    Completes i s (cpParts ++ [.memptr]) [] (cpCalls s) fun t =>
      Compared s delta t ∧ t.memptr = s.memptr + delta := by
  obtain ⟨hc, hi, hf⟩ := cpStep_spec s delta
  exact ⟨_, he, hi, hf.trans (setMemptr_frame _ _), hc, rfl⟩

theorem completes_cpRepeat (he : exec i s = .next (s.cpRepeat delta)) :
    if s.bc = 1 ∨ s.a = s.memAnswer 0 s.hl then
      Completes i s (cpParts ++ [.memptr]) [] (cpCalls s) fun t =>
        Compared s delta t ∧ t.memptr = s.memptr + delta
    else Completes i s (.pc :: (cpParts ++ [.memptr])) []
      (cpCalls s ++ List.replicate 5 (.noRequestMem s.hl)) fun t =>
      Compared s delta t ∧ t.pc = s.pc - 2 ∧ t.memptr = s.pc - 1 := by
  rw [cpRepeat_eq] at he
  split
  · next h => exact completes_cpSingle (he.trans (congrArg _ (if_pos h)))
  · next h =>
    obtain ⟨hc, hi, hf⟩ := cpStep_spec s delta
    obtain ⟨hpc, hmem, ki, kf⟩ := repeatWithMemptr_spec (s.cpStep delta) s.hl
    exact ⟨_, he.trans (congrArg _ (if_neg h)), hi.trans ki, (hf.trans kf).mono (by simp [cpParts]) (by simp),
      hc, hpc, hmem⟩

end

end Sys2Proof.Machine

section
open Sys2Proof Sys2Proof.Machine

/-- Settles O29: the register exchanges are writes of pairs with each other's old values; the stack forms exchange
the top of the stack, and then HL or the index register takes the word read. -/
theorem exchanges : Obligations.Exchanges := by
  unfold Obligations.Exchanges
  intro s top
  refine ⟨?_, ?_, ?_, ?_, fun x => ?_⟩
  · obtain ⟨-, hi, hf⟩ := setPairSp_spec s .de s.hl
    exact completes_load rfl hi hf (setPairSp_spec _ .hl s.de) fun h => ⟨rfl, h⟩
  · obtain ⟨-, hi, hf⟩ := setPairAf_spec s .af s.afAlt
    exact ⟨_, rfl, hi, hf.trans (setAfAlt_frame _ s.af), rfl, rfl⟩
  · obtain ⟨hi, hf⟩ := setPairs_spec s s.bcAlt s.deAlt s.hlAlt
    exact ⟨_, rfl, hi, hf.trans (setShadowPairs_frame _ s.bc s.de s.hl), rfl, rfl, rfl, rfl, rfl, rfl⟩
  · obtain ⟨hw, hm, hword, hi, hf⟩ := exchangeTop_spec s s.hl
    obtain ⟨ki, kf⟩ := setHl_spec (s.exchangeTop s.hl).2 (s.exchangeTop s.hl).1
    exact ⟨_, rfl, hi.trans ki, (hf.trans kf).mono (by simp) (by simp), hw, hm, hword⟩
  · obtain ⟨hw, hm, hword, hi, hf⟩ := exchangeTop_spec s (s.idx x)
    obtain ⟨kw, ki, kf⟩ := setIdx_spec (s.exchangeTop (s.idx x)).2 x (s.exchangeTop (s.idx x)).1
    exact ⟨_, rfl, hi.trans ki, hf.trans kf, kw.trans hw, (setIdx_memptr ..).trans hm,
      (setIdx_wordAt ..).trans hword⟩

/-- Settles O30: LDI and LDD are one iteration, and LDIR and LDDR repeat it unless BC was 1. -/
theorem blockTransfers : Obligations.BlockTransfers := by
  unfold Obligations.BlockTransfers
  exact fun s => ⟨completes_ldStep rfl, completes_ldStep rfl, completes_ldRepeat rfl, completes_ldRepeat rfl⟩

/-- Settles O31: CPI and CPD are one iteration and a step of MEMPTR, and CPIR and CPDR repeat the iteration unless BC
was 1 or the byte is A. -/
theorem blockSearches : Obligations.BlockSearches := by
  unfold Obligations.BlockSearches
  exact fun s => ⟨completes_cpSingle rfl, completes_cpSingle rfl, completes_cpRepeat rfl, completes_cpRepeat rfl⟩

end

/-! # 8-bit arithmetic and CPU control -/

namespace Sys2Proof.Machine
open Sys2Proof

/-! ## The ALU once its operand is read -/

theorem aluApply_spec (s : State) (op : AluOp) (v : Byte) :
    ((s.aluApply op v).a, (s.aluApply op v).f) = aluBits op s.a v (flagC s.f) ∧ Issued [] s (s.aluApply op v)
      ∧ Frame [.reg .a, .f] [] s (s.aluApply op v) := by
  obtain ⟨-, -, hi, hf⟩ := modifyReg_spec s .a fun a f => alu op a v f
  exact ⟨aluApply_result s op v, hi, hf⟩

/-- An instruction that ends in an ALU operation, A and F untouched while its operand is read. -/
theorem completes_aluApply {i : Instr} {s u : State} {op : AluOp} {v : Byte} {ps : List Part} {cs : List BusCall}
    {post : State → Prop} (he : exec i s = .next (u.aluApply op v)) (hi : Issued cs s u) (hf : Frame ps [] s u)
    (ha : .reg .a ∉ ps) (hfl : .f ∉ ps)
    (hp : ((u.aluApply op v).a, (u.aluApply op v).f) = aluBits op s.a v (flagC s.f) → post (u.aluApply op v)) :
    Completes i s (.reg .a :: .f :: ps) [] cs post := by
  obtain ⟨hr, ki, kf⟩ := aluApply_spec u op v
  have hua : u.a = s.a := hf.1 _ ha
  have huf : u.f = s.f := hf.1 _ hfl
  rw [hua, huf] at hr
  exact ⟨_, he, List.append_nil cs ▸ hi.trans ki, (hf.trans kf).mono (by simp +contextual [or_imp]) (by simp),
    hp hr⟩

/-! ## Byte operations on memory and on F -/

/-- An instruction that runs a byte operation on (HL). -/
theorem completes_modifyHl {i : Instr} {s : State} {op bits : Byte → Byte → Byte × Byte}
    (he : exec i s = .next (s.modify s.hl op).2) (hop : ∀ v f, op v f = bits v f) :
    let w := bits (s.memAnswer 0 s.hl) s.f
    Completes i s [.f] [s.hl] [.readMem s.hl, .noRequestMem s.hl, .writeMem s.hl w.1] fun t =>
      t.byteAt s.hl = w.1 ∧ t.f = w.2 := by
  obtain rfl : op = bits := funext₂ hop
  obtain ⟨-, hfl, hb, hi, hf⟩ := modify_spec s s.hl op
  exact ⟨_, he, hi, hf, hb, hfl⟩

/-- An instruction that runs a byte operation on (IDX+d). -/
theorem completes_modifyIdx {i : Instr} {s : State} {x : IdxReg} {d : Byte} {op bits : Byte → Byte → Byte × Byte}
    (he : exec i s = .next (s.modifyIdx x d op)) (hop : ∀ v f, op v f = bits v f) :
    let ea := s.idxAddr x d
    let w := bits (s.memAnswer 1 ea) s.f
    Completes i s [.f, .memptr, .pc] [ea] (dispCalls s ++ [.readMem ea, .noRequestMem ea, .writeMem ea w.1]) fun t =>
      t.byteAt ea = w.1 ∧ t.f = w.2 ∧ t.memptr = ea ∧ t.pc = s.pc + 1 := by
  obtain rfl : op = bits := funext₂ hop
  obtain ⟨hb, hfl, hm, hpc, hi, hf⟩ := modifyIdx_spec s x d op
  exact ⟨_, he, hi, hf, hb, hfl, hm, hpc⟩

/-- An instruction that writes F alone. -/
theorem completes_setF {i : Instr} {s : State} {v w : Byte} (he : exec i s = .next (s.setF v)) (hw : v = w) :
    Completes i s [.f] [] [] fun t => t.f = w := by
  obtain ⟨hv, hi, hf⟩ := setF_spec s v
  exact ⟨_, he, hi, hf, hv.trans hw⟩

/-- CPL as a byte operation on A: F5 and F3 come from the new A (R346). -/
def complement (a f : Byte) : Byte × Byte := (~~~a, cplF (~~~a) f)

theorem exec_cpl (s : State) : exec .cpl s = .next (s.modifyReg .a complement) := rfl

/-! ## The interrupt state and HALT -/

theorem setIff2_frame (s : State) (v : Bool) : Frame [.iff2] [] s { s with iff2 := v } :=
  ⟨fun p hp => by cases p <;> simp_all [Part.same] <;> rfl, fun _ _ => rfl⟩

theorem setIntBlocked_frame (s : State) (v : Bool) : Frame [.intBlocked] [] s { s with intBlocked := v } :=
  ⟨fun p hp => by cases p <;> simp_all [Part.same] <;> rfl, fun _ _ => rfl⟩

theorem setHalted_frame (s : State) (v : Bool) : Frame [.halted] [] s { s with halted := v } :=
  ⟨fun p hp => by cases p <;> simp_all [Part.same] <;> rfl, fun _ _ => rfl⟩

theorem setIm_frame (s : State) (m : IntMode) : Frame [.im] [] s { s with im := m } :=
  ⟨fun p hp => by cases p <;> simp_all [Part.same] <;> rfl, fun _ _ => rfl⟩

theorem exec_ignoredIndexPrefix (x : IdxReg) (op : Byte) (s : State) :
    exec (.ignoredIndexPrefix x op) s = .next (if isIndexPrefix op then s.redundantPrefix op else s) := rfl

/-- An instruction that does nothing. -/
theorem completes_nothing {i : Instr} {s : State} (he : exec i s = .next s) : Completes i s [] [] [] fun _ => True :=
  ⟨s, he, .refl s, .refl s, trivial⟩

/-- An instruction that sets the interrupt mode. -/
theorem completes_setIm {i : Instr} {s : State} {m : IntMode} (he : exec i s = .next { s with im := m }) :
    Completes i s [.im] [] [] fun t => t.im = m :=
  ⟨_, he, ⟨rfl, rfl, rfl⟩, setIm_frame s m, rfl⟩

/-! ## INT_BLOCKED over a step (R353, R582) -/

/-- The instructions that write a part in `State.kept`, in the order of `writesKept`: EI is the third, and RETI
and RETN are the last two. -/
theorem exec_intBlocked_of_writesKept {i : Instr} (h : writesKept i = true) (hi : i ≠ .ei) (s : State) :
    ∃ t, exec i s = .next t ∧ t.intBlocked = s.intBlocked := by
  unfold writesKept at h
  split at h
  case h_3 => exact absurd rfl hi
  case h_11 | h_12 =>
    obtain ⟨-, -, -, -, -, hf⟩ := returnFromInterrupt_spec s
    exact ⟨s.returnFromInterrupt, rfl, hf.1 .intBlocked (by simp)⟩
  case h_13 => exact Bool.noConfusion h
  all_goals exact ⟨_, rfl, rfl⟩

/-- An Operation but that of EI leaves INT_BLOCKED alone or, as a redundant prefix does, leaves a prefix pending. -/
theorem exec_intBlocked {i : Instr} {s t : State} (hi : i ≠ .ei) (he : exec i s = .next t)
    (hp : t.pendingIndex = none) : t.intBlocked = s.intBlocked := by
  obtain ⟨x, op, -, -, hr⟩ | ⟨f, hr, hf⟩ := exec_cases i
  · cases he.symm.trans (hr s)
    exact absurd hp nofun
  · cases hw : writesKept i with
    | false =>
      have hk := (hf.runs s).kept hw
      simp only [State.kept, Prod.mk.injEq] at hk
      obtain ⟨-, -, -, -, -, -, -, -, -, -, hb, -⟩ := hk
      cases he.symm.trans (hr s)
      exact hb
    | true =>
      obtain ⟨u, hu, hb⟩ := exec_intBlocked_of_writesKept hw hi s
      cases he.symm.trans hu
      exact hb

theorem takesInt_of_intBlocked {s : State} (h : s.intBlocked = true) : s.takesInt = false := by
  simp [State.takesInt, h]

/-- The host requests neither NMI nor RESET, and INT cannot be taken: no signal is serviced. -/
theorem withInputs_noSignal_of_intBlocked (s : State) (int : Bool) (data : Byte) (h : s.intBlocked = true) :
    (s.withInputs false false int data).noSignal = true := by
  have ht : (s.withInputs false false int data).takesInt = false := takesInt_of_intBlocked h
  rw [State.noSignal, ht]
  rfl

/-- With INT requested alone, IFF1 decides when INT_BLOCKED is clear and no prefix is pending. -/
theorem withInputs_takesInt_of_unblocked {s : State} (hb : s.intBlocked = false) (hp : s.pendingIndex = none)
    (data : Byte) :
    (s.withInputs false false true data).takesInt = s.iff1 := by
  simp [State.takesInt, State.takesReset, State.takesNmi, State.withInputs, hb, hp]

/-- A step that services no signal clears INT_BLOCKED, unless it runs EI or leaves a prefix pending. -/
theorem step_intBlocked {s t : State} (hs : s.noSignal = true) (ht : step s = .next t) (hi : s.runsInstr.1 ≠ .ei)
    (hp : t.pendingIndex = none) : t.intBlocked = false := by
  cases hh : s.halted with
  | true => cases ht.symm.trans (step_halted s hs hh); rfl
  | false =>
    obtain ⟨n, k, hf⟩ := runsInstr_fetches s
    rw [step_runsInstr s hs hh] at ht
    exact (exec_intBlocked hi ht hp).trans (congrArg State.intBlocked hf.rest)

/-- The state that EI at PC leaves: one byte fetched, and the flip-flops and INT_BLOCKED set (R353). -/
def State.afterEi (s : State) : State := { s.fetchM1 with iff1 := true, iff2 := true, intBlocked := true }

theorem step_ei {s : State} (hs : s.noSignal = true) (hh : s.halted = false) (hp : s.pendingIndex = none)
    (h0 : s.streamByte 0 = 0xFB) : step s = .next s.afterEi := by
  have hu : s.unblocked.streamByte 0 = 0xFB := h0
  have hx : isIndexPrefix (s.unblocked.streamByte 0) = false := by rw [hu]; rfl
  have hr := (step_runs s hs hh).trans (runNext_unprefixed s.unblocked hp hx)
  rw [hr, hu]
  rfl

end Sys2Proof.Machine

section
open Sys2Proof Sys2Proof.Machine

/-- Settles O32: the immediate is read first, and then each is the ALU operation on its operand. -/
theorem aluOnRegisters : Obligations.AluOnRegisters := by
  unfold Obligations.AluOnRegisters
  intro s op result
  obtain ⟨hpc, hi, hf⟩ := imm8_spec s
  exact ⟨fun r => completes_aluApply (exec_aluR op r s) (.refl s) (.refl s) (by simp) (by simp) id,
    fun n => completes_aluApply (exec_aluN op n s) hi hf (by simp) (by simp) fun hr => ⟨hr, hpc⟩,
    fun x h => completes_aluApply (exec_aluIdxHalf op x h s) (.refl s) (.refl s) (by simp) (by simp) id⟩

/-- Settles O33: the byte is read, at (IDX+d) with MEMPTR and PC moved, and then the ALU operates on it. -/
theorem aluOnMemory : Obligations.AluOnMemory := by
  unfold Obligations.AluOnMemory
  intro s op result
  refine ⟨?_, fun x d => ?_⟩
  · obtain ⟨hi, hf⟩ := memRead_spec s s.hl
    exact completes_aluApply (exec_aluIndHl op s) hi hf (by simp) (by simp) id
  · obtain ⟨hv, hm, hpc, hi, hf⟩ := readIdx_spec s x d
    have he := exec_aluIndIdx op x d s
    rw [State.aluIdx, hv] at he
    exact completes_aluApply he hi hf (by simp) (by simp) fun hr => ⟨hr, hm, hpc⟩

/-- Settles O35: each is the byte operation of R177 or R178 on (HL) or (IDX+d). -/
theorem incDecMemory : Obligations.IncDecMemory := by
  unfold Obligations.IncDecMemory
  exact fun s => ⟨completes_modifyHl rfl inc8_eq, completes_modifyHl rfl dec8_eq,
    fun x d => completes_modifyIdx rfl inc8_eq, fun x d => completes_modifyIdx rfl dec8_eq⟩

/-- Settles O36: DAA, CPL and NEG are byte operations on A, and CCF and SCF write F alone. -/
theorem accumulatorAndFlagOperations : Obligations.AccumulatorAndFlagOperations := by
  unfold Obligations.AccumulatorAndFlagOperations
  intro s
  refine ⟨completes_modifyReg rfl (daaF_eq s.a s.f), ?_, fun v => ?_, completes_setF rfl (ccfF_eq s.a s.f),
    completes_setF rfl (scfF_eq s.a s.f)⟩
  · obtain ⟨ha, hfl, hi, hf⟩ := modifyReg_spec s .a complement
    rw [reg_a] at ha
    exact ⟨_, exec_cpl s, hi, hf, ha, ha ▸ hfl.trans (cplF_eq ..)⟩
  · exact completes_modifyReg (op := fun a _ => sub8 0 a false) rfl (sub8_eq 0 s.a false)

/-- Settles O60: INT_BLOCKED holds off the INT of the next step, and that step clears it. -/
theorem eiShadowLastsOneStep : Obligations.EiShadowLastsOneStep := by
  unfold Obligations.EiShadowLastsOneStep
  intro s hs hh hp h0
  refine ⟨s.afterEi, step_ei hs hh hp h0, rfl, rfl, rfl, fun int data => ⟨takesInt_of_intBlocked rfl, ?_⟩⟩
  obtain ⟨u, hu⟩ := step_next (s.afterEi.withInputs false false int data)
  refine ⟨u, hu, fun hi hup => withInputs_takesInt_of_unblocked ?_ hup data⟩
  exact step_intBlocked (withInputs_noSignal_of_intBlocked s.afterEi int data rfl) hu hi hup

/-- Settles O38: each writes the parts its rule names, one after the other, and a redundant prefix fetches too. -/
theorem controlInstructions : Obligations.ControlInstructions := by
  unfold Obligations.ControlInstructions
  intro s
  refine ⟨completes_nothing rfl, fun v => completes_nothing rfl, ?_, ?_, ?_, fun v => completes_setIm rfl,
    fun v => completes_setIm rfl, fun v => completes_setIm rfl, fun x op h => ?_, fun x op h => ?_⟩
  · exact ⟨_, rfl, ⟨rfl, rfl, rfl⟩, (setHalted_frame s true).trans (setPc_frame _ (s.pc - 1)), rfl, rfl⟩
  · exact ⟨_, rfl, ⟨rfl, rfl, rfl⟩, clearIffs_frame s, rfl, rfl⟩
  · exact ⟨_, rfl, ⟨rfl, rfl, rfl⟩,
      ((setIff1_frame s true).trans (setIff2_frame _ true)).trans (setIntBlocked_frame _ true), rfl, rfl, rfl⟩
  · refine completes_nothing ?_
    rw [exec_ignoredIndexPrefix, h]
    rfl
  · obtain ⟨hpc, hr, hb, hp, hi, hf⟩ := redundantPrefix_spec s op
    refine ⟨s.redundantPrefix op, ?_, hi, hf.mono (by simp) (by simp), hpc, hr, hp, hb⟩
    rw [exec_ignoredIndexPrefix, h]
    rfl

end

/-! # INC and DEC of pairs -/

section
open Sys2Proof Sys2Proof.Machine

/-- Settles O40: two idle T-states at I : R, and then the pair takes its old value plus or minus 1; F is in no pair
written, and so the frame holds it. -/
theorem incDecPairs : Obligations.IncDecPairs := by
  unfold Obligations.IncDecPairs
  intro s calls
  obtain ⟨hi, hf⟩ := idle_spec s s.irAddr 2
  exact ⟨fun ss => completes_load rfl hi hf (setPairSp_spec _ ss (s.pairSp ss + 1)) id,
    fun ss => completes_load rfl hi hf (setPairSp_spec _ ss (s.pairSp ss - 1)) id,
    fun x => completes_load rfl hi hf (setIdx_spec _ x (s.idx x + 1)) id,
    fun x => completes_load rfl hi hf (setIdx_spec _ x (s.idx x - 1)) id⟩

end

/-! # Rotates, shifts, RES and SET on memory, RLD and RRD -/

namespace Sys2Proof
open Machine

/-! ## Digits in numbers -/

theorem and_highDigit_toNat : ∀ a : Byte, (a &&& 0xF0).toNat = a.toNat / 16 * 16 := by decide +kernel

theorem shiftRight_four_toNat (v : Byte) : (v >>> 4).toNat = v.toNat / 16 := Nat.shiftRight_eq_div_pow _ 4

theorem shiftLeft_four_toNat (v : Byte) : (v <<< 4).toNat = v.toNat % 16 * 16 := by
  rw [BitVec.toNat_shiftLeft, Nat.shiftLeft_eq]
  omega

theorem and_lowDigit_toNat (v : Byte) : (v &&& 0x0F).toNat = v.toNat % 16 := (toNat_mod16 v).symm

theorem and_lowDigit_shiftLeft_toNat (v : Byte) : ((v &&& 0x0F) <<< 4).toNat = v.toNat % 16 * 16 := by
  rw [shiftLeft_four_toNat, and_lowDigit_toNat, Nat.mod_mod]

/-- A high digit and a low digit share no bit, so that OR adds them. -/
theorem or_eq_byteOf {x y : Byte} {h l : Nat} (hx : x.toNat = h * 16) (hy : y.toNat = l) (hl : l < 16) :
    x ||| y = byteOf (h * 16 + l) := by
  apply BitVec.eq_of_toNat_eq
  have hor : h * 16 ||| l = h * 16 + l := by
    rw [Nat.mul_comm]
    exact (Nat.two_pow_add_eq_or_of_lt (i := 4) hl h).symm
  have hlt := x.isLt
  rw [BitVec.toNat_or, byteOf_toNat, hx, hy, hor, Nat.mod_eq_of_lt (by omega)]

/-- The digits of RLD in numbers (46_rotate_shift.md R414). -/
theorem rldDigits_eq (a v : Byte) :
    rldDigits a v = (byteOf (a.toNat / 16 * 16 + v.toNat / 16), byteOf (v.toNat % 16 * 16 + a.toNat % 16)) :=
  have hv := v.isLt
  Prod.ext (or_eq_byteOf (and_highDigit_toNat a) (shiftRight_four_toNat v) (by omega))
    (or_eq_byteOf (shiftLeft_four_toNat v) (and_lowDigit_toNat a) (by omega))

/-- The digits of RRD in numbers (46_rotate_shift.md R415). -/
theorem rrdDigits_eq (a v : Byte) :
    rrdDigits a v = (byteOf (a.toNat / 16 * 16 + v.toNat % 16), byteOf (a.toNat % 16 * 16 + v.toNat / 16)) :=
  have hv := v.isLt
  Prod.ext (or_eq_byteOf (and_highDigit_toNat a) (and_lowDigit_toNat v) (by omega))
    (or_eq_byteOf (and_lowDigit_shiftLeft_toNat a) (shiftRight_four_toNat v) (by omega))

end Sys2Proof

namespace Sys2Proof.Machine
open Sys2Proof

/-! ## RLD and RRD -/

/-- The byte is read, four T-states idle, F and A take the new A, the byte is written back, and MEMPTR is HL + 1. -/
theorem rotateDigits_spec (s : State) (digits : Byte → Byte → Byte × Byte) :
    let p := digits s.a (s.memAnswer 0 s.hl)
    let t := s.rotateDigits digits
    t.a = p.1 ∧ t.byteAt s.hl = p.2 ∧ t.f = readBits p.1 s.f ∧ t.memptr = s.hl + 1
      ∧ Issued (.readMem s.hl :: List.replicate 4 (.noRequestMem s.hl) ++ [.writeMem s.hl p.2]) s t
      ∧ Frame [.reg .a, .f, .memptr] [s.hl] s t := by
  intro p t
  obtain ⟨hi, hf⟩ := memRead_spec s s.hl
  obtain ⟨ki, kf⟩ := idle_spec (s.memRead s.hl).2 s.hl 4
  let u := (s.memRead s.hl).2.idle s.hl 4
  obtain ⟨hfl, li, lf⟩ := setF_spec u (logicKeepC p.1 s.f)
  obtain ⟨ha, mi, mf⟩ := setReg_spec (u.setF (logicKeepC p.1 s.f)) .a p.1
  obtain ⟨ni, nf, hb⟩ := memWrite_spec ((u.setF (logicKeepC p.1 s.f)).setA p.1) s.hl p.2
  have hflags : ((u.setF (logicKeepC p.1 s.f)).setA p.1).f = readBits p.1 s.f :=
    ((mf.1 .f (by simp)).trans hfl).trans (logicKeepC_eq p.1 s.f)
  exact ⟨ha, hb, hflags, rfl, (((hi.trans ki).trans li).trans mi).trans ni,
    (((((hf.trans kf).trans lf).trans mf).trans nf).trans (setMemptr_frame _ (s.hl + 1))).mono (by simp) (by simp)⟩

/-- An instruction that sends the digits of (HL) and A round. -/
theorem completes_rotateDigits {i : Instr} {s : State} {digits : Byte → Byte → Byte × Byte} {a' w : Byte}
    (he : exec i s = .next (s.rotateDigits digits)) (hd : digits s.a (s.memAnswer 0 s.hl) = (a', w)) :
    Completes i s [.reg .a, .f, .memptr] [s.hl]
      (.readMem s.hl :: List.replicate 4 (.noRequestMem s.hl) ++ [.writeMem s.hl w]) fun t =>
      t.a = a' ∧ t.byteAt s.hl = w ∧ t.f = readBits a' s.f ∧ t.memptr = s.hl + 1 := by
  obtain ⟨ha, hb, hfl, hm, hi, hf⟩ := rotateDigits_spec s digits
  rw [hd] at ha hb hfl hi
  exact ⟨_, he, hi, hf, ha, hb, hfl, hm⟩

/-! ## The CB table on memory -/

theorem exec_cbIndHl (op : CbOp) (s : State) : exec (cbIndHl op) s = .next (s.modify s.hl op.apply).2 := by
  cases op with
  | rot k => cases k <;> rfl
  | res b => rfl
  | set b => rfl

theorem exec_cbIndIdx (op : CbOp) (x : IdxReg) (d : Byte) (s : State) :
    exec (cbIndIdx op x d) s = .next (s.modifyIdxCb x d none op.apply) := by
  cases op with
  | rot k => cases k <;> rfl
  | res b => rfl
  | set b => rfl

theorem exec_cbIndIdxR (op : CbOp) (x : IdxReg) (d : Byte) (r : Reg8) (s : State) :
    exec (cbIndIdxR op x d r) s = .next (s.modifyIdxCb x d (some r) op.apply) := by
  cases op with
  | rot k => cases k <;> rfl
  | res b => rfl
  | set b => rfl

/-- RES and SET write F back as it was, so that their frame need not list it. -/
theorem CbOp.frame_flagParts {op : CbOp} {ps qs : List Part} {as : List Word} {s t : State} {v : Byte}
    (h : Frame ps as s t) (hfl : t.f = (op.apply v s.f).2) (hp : ∀ p ∈ ps, p = .f ∨ p ∈ qs) :
    Frame (qs ++ op.flagParts) as s t := by
  cases op with
  | rot k => exact h.mono (fun p hm => by simpa [flagParts, or_comm] using hp p hm) fun _ => id
  | res b => exact h.without (q := .f) hfl (by simpa [flagParts] using hp)
  | set b => exact h.without (q := .f) hfl (by simpa [flagParts] using hp)

/-- An instruction that leaves in F what the CB table's operation on a byte makes of it. -/
theorem completes_cb {i : Instr} {op : CbOp} {ps qs : List Part} {as : List Word} {cs : List BusCall} {s t : State}
    {v : Byte} {post : State → Prop} (he : exec i s = .next t) (hi : Issued cs s t) (hf : Frame ps as s t)
    (hfl : t.f = (op.apply v s.f).2) (hp : ∀ p ∈ ps, p = .f ∨ p ∈ qs)
    (hpost : CbResult op v s.f (op.apply v s.f).1 t.f → post t) : Completes i s (qs ++ op.flagParts) as cs post :=
  ⟨t, he, hi, CbOp.frame_flagParts hf hfl hp, hpost (hfl ▸ cbResult_apply op v s.f)⟩

end Sys2Proof.Machine

section
open Sys2Proof Sys2Proof.Machine

/-- Settles O43: each is a read-modify-write at HL or, with MEMPTR, at the effective address; the copy forms then
load the register. -/
theorem cbOnMemory : Obligations.CbOnMemory := by
  unfold Obligations.CbOnMemory
  refine fun s op => ⟨?_, fun x d => ?_, fun x d r => ?_⟩
  · obtain ⟨-, hfl, hb, hi, hf⟩ := modify_spec s s.hl op.apply
    exact ⟨_, completes_cb (qs := []) (exec_cbIndHl op s) hi hf hfl (by simp) fun h => ⟨hb, h⟩⟩
  · obtain ⟨hb, hfl, hm, -, hi, hf⟩ := modifyIdxCb_spec s x d none op.apply
    exact ⟨_, completes_cb (qs := [.memptr]) (exec_cbIndIdx op x d s) hi hf hfl (by simp) fun h => ⟨hb, hm, h⟩⟩
  · obtain ⟨hb, hfl, hm, hr, hi, hf⟩ := modifyIdxCb_spec s x d (some r) op.apply
    exact ⟨_, completes_cb (qs := [.reg r, .memptr]) (exec_cbIndIdxR op x d r s) hi hf hfl (by simp)
      fun h => ⟨hb, hr r rfl, hm, h⟩⟩

/-- Settles O44: the four digits in numbers, and what RLD and RRD share does the rest. -/
theorem digitRotates : Obligations.DigitRotates := by
  unfold Obligations.DigitRotates
  exact fun s => ⟨completes_rotateDigits rfl (rldDigits_eq _ _), completes_rotateDigits rfl (rrdDigits_eq _ _)⟩

end

/-! # Jumps, calls and returns -/

namespace Sys2Proof.Machine
open Sys2Proof

/-! ## An instruction that chooses by a condition (30_encoding.md R114) -/

section Condition
variable {i : Instr} {s t u : State} {cc : Cond}

theorem exec_of_condTrue (he : exec i s = .next (if condHolds cc s.f then t else u)) (h : CondTrue cc s.f) :
    exec i s = .next t :=
  he.trans (congrArg _ (if_pos ((condHolds_iff cc s.f).2 h)))

theorem exec_of_not_condTrue (he : exec i s = .next (if condHolds cc s.f then t else u)) (h : ¬CondTrue cc s.f) :
    exec i s = .next u :=
  he.trans (congrArg _ (if_neg (mt (condHolds_iff cc s.f).1 h)))

end Condition

/-! ## The operand nn of a jump or call, which MEMPTR takes -/

/-- The operand nn is read and MEMPTR takes it (R461, R467). -/
def State.targetOperand (s : State) (nn : Word) : State := { s.imm16 with memptr := nn }

theorem targetOperand_spec (s : State) (nn : Word) :
    (s.targetOperand nn).pc = s.pc + 2 ∧ Issued (nnCalls s) s (s.targetOperand nn)
      ∧ Frame [.pc, .memptr] [] s (s.targetOperand nn) := by
  obtain ⟨hpc, hi, hf⟩ := imm16_spec s
  exact ⟨hpc, hi, hf.trans (setMemptr_frame _ nn)⟩

theorem exec_jpCcNn (cc : Cond) (nn : Word) (s : State) :
    exec (.jpCcNn cc nn) s
      = .next (if condHolds cc s.f then { s.targetOperand nn with pc := nn } else s.targetOperand nn) := rfl

theorem exec_callCcNn (cc : Cond) (nn : Word) (s : State) :
    exec (.callCcNn cc nn) s
      = .next (if condHolds cc s.f then (s.targetOperand nn).call nn else s.targetOperand nn) := rfl

/-- A taken CALL: the address after nn stands pushed (R466). -/
theorem completes_call {i : Instr} {s : State} {nn : Word} (he : exec i s = .next ((s.targetOperand nn).call nn)) :
    Completes i s [.pc, .memptr, .sp] [s.sp - 1, s.sp - 2]
      (nnCalls s ++ .noRequestMem (s.pc + 1) :: pushCalls s (s.pc + 2)) fun t =>
      t.pc = nn ∧ t.memptr = nn ∧ Pushed (s.pc + 2) s t := by
  obtain ⟨hpc, hi, hf⟩ := targetOperand_spec s nn
  obtain ⟨hnn, ki, kf, hp⟩ := call_spec (s.targetOperand nn) nn
  have hsp : (s.targetOperand nn).sp = s.sp := rfl
  simp only [pushCalls, Pushed, hpc, hsp, word_add_two_sub_one] at ki kf hp
  exact ⟨_, he, hi.trans ki, (hf.trans kf).mono (by simp) (by simp), hnn, rfl, hp⟩

/-! ## Relative jumps -/

theorem relativeJump_spec (s : State) (e : Byte) :
    let target := s.pc + BitVec.ofInt 16 e.toInt
    (s.relativeJump e).pc = target ∧ (s.relativeJump e).memptr = target
      ∧ Issued (List.replicate 5 (.noRequestMem (s.pc - 1))) s (s.relativeJump e)
      ∧ Frame [.pc, .memptr] [] s (s.relativeJump e) := by
  obtain ⟨hi, hf⟩ := idle_spec s (s.pc - 1) 5
  obtain ⟨hpc, hm, ki, kf⟩ := goTo_spec (s.idle (s.pc - 1) 5) (s.pc + sext16 e)
  exact ⟨hpc, hm, hi.trans ki, hf.trans kf⟩

/-- An instruction that ends in a relative jump taken, once its displacement is read. -/
theorem completes_relativeJump {i : Instr} {s u : State} {e : Byte} {ps : List Part} {cs : List BusCall}
    {post : State → Prop} (he : exec i s = .next (u.relativeJump e)) (hpc : u.pc = s.pc + 1) (hi : Issued cs s u)
    (hf : Frame (.pc :: ps) [] s u) (hpost : post (u.relativeJump e)) :
    Completes i s (.pc :: .memptr :: ps) [] (cs ++ List.replicate 5 (.noRequestMem s.pc)) fun t =>
      t.pc = s.pc + 1 + BitVec.ofInt 16 e.toInt ∧ t.memptr = s.pc + 1 + BitVec.ofInt 16 e.toInt ∧ post t := by
  obtain ⟨kpc, hm, ki, kf⟩ := relativeJump_spec u e
  rw [hpc] at kpc hm ki
  rw [BitVec.add_sub_cancel] at ki
  exact ⟨_, he, hi.trans ki, (hf.trans kf).mono (by simp +contextual [or_imp]) (by simp), kpc, hm, hpost⟩

theorem exec_jrCc (cc : JrCond) (e : Byte) (s : State) :
    exec (.jrCc cc e) s = .next (if condHolds (jrCondition cc) s.f then s.imm8.relativeJump e else s.imm8) := by
  rw [← jrCondHolds_eq]
  rfl

/-- What DJNZ does before its test (R465): one idle T-state, the read of the displacement, B decremented. -/
def State.countB (s : State) : State := (s.idle s.irAddr 1).imm8.setReg .b (s.reg .b - 1)

theorem countB_spec (s : State) :
    s.countB.reg .b = s.reg .b - 1 ∧ s.countB.pc = s.pc + 1
      ∧ Issued [.noRequestMem (join s.i s.r), .readMem s.pc] s s.countB ∧ Frame [.pc, .reg .b] [] s s.countB := by
  obtain ⟨hi, hf⟩ := idle_spec s s.irAddr 1
  obtain ⟨hpc, ki, kf⟩ := imm8_spec (s.idle s.irAddr 1)
  obtain ⟨hb, li, lf⟩ := setReg_spec (s.idle s.irAddr 1).imm8 .b (s.reg .b - 1)
  exact ⟨hb, hpc, (hi.trans ki).trans li, (hf.trans kf).trans lf⟩

/-- DJNZ jumps unless B was 1. -/
theorem exec_djnz (e : Byte) (s : State) :
    exec (.djnz e) s = .next (if s.reg .b ≠ 1 then s.countB.relativeJump e else s.countB) := by
  have htest : s.countB.reg .b ≠ 0 ↔ s.reg .b ≠ 1 := by rw [(countB_spec s).1]; exact sub_ne_zero
  have hexec : exec (.djnz e) s = .next (if s.countB.reg .b ≠ 0 then s.countB.relativeJump e else s.countB) := rfl
  rw [hexec, if_congr htest rfl rfl]

end Sys2Proof.Machine

section
open Sys2Proof Sys2Proof.Machine

/-- Settles O46: the forms with nn read it and leave it in MEMPTR whether PC takes it or not; the others write PC
alone. -/
theorem absoluteJumps : Obligations.AbsoluteJumps := by
  unfold Obligations.AbsoluteJumps
  refine fun s => ⟨fun nn => ?_, fun cc nn => ?_, ?_, fun x => ?_⟩
  · obtain ⟨-, hi, hf⟩ := imm16_spec s
    obtain ⟨hpc, hm, ki, kf⟩ := goTo_spec s.imm16 nn
    exact ⟨_, rfl, hi.trans ki, (hf.trans kf).mono (by simp) (by simp), hpc, hm⟩
  · obtain ⟨hpc, hi, hf⟩ := targetOperand_spec s nn
    by_cases h : CondTrue cc s.f
    · exact ⟨_, exec_of_condTrue (exec_jpCcNn cc nn s) h, hi,
        (hf.trans (setPc_frame _ nn)).mono (by simp) (by simp), rfl, fun _ => rfl, absurd h⟩
    · exact ⟨_, exec_of_not_condTrue (exec_jpCcNn cc nn s) h, hi, hf, rfl, (absurd · h), fun _ => hpc⟩
  · exact ⟨_, rfl, ⟨rfl, rfl, rfl⟩, setPc_frame s s.hl, rfl⟩
  · exact ⟨_, rfl, ⟨rfl, rfl, rfl⟩, setPc_frame s (s.idx x), rfl⟩

/-- Settles O47: the displacement is read (by DJNZ with B decremented), and then the same relative jump is taken or
not. -/
theorem relativeJumps : Obligations.RelativeJumps := by
  unfold Obligations.RelativeJumps
  intro s e target idle taken notTaken
  obtain ⟨hpc, hi, hf⟩ := imm8_spec s
  obtain ⟨hb, kpc, ki, kf⟩ := countB_spec s
  refine ⟨completes_relativeJump rfl hpc hi hf trivial, fun cc => ⟨fun h => ?_, fun h => ?_⟩, fun h => ?_, fun h => ?_⟩
  · exact completes_relativeJump (exec_of_condTrue (exec_jrCc cc e s) h) hpc hi hf trivial
  · exact ⟨_, exec_of_not_condTrue (exec_jrCc cc e s) h, hi, hf, hpc, trivial⟩
  · exact completes_relativeJump ((exec_djnz e s).trans (congrArg _ (if_pos h))) kpc ki kf hb
  · exact ⟨_, (exec_djnz e s).trans (congrArg _ (if_neg (not_not_intro h))), ki, kf, kpc, hb.trans (sub_eq_zero.2 h)⟩

/-- Settles O48: CALL reads nn and then idles, pushes and jumps, RST without nn; CALL cc not taken stops after nn. -/
theorem callsAndRestarts : Obligations.CallsAndRestarts := by
  unfold Obligations.CallsAndRestarts
  refine fun s => ⟨fun nn => completes_call rfl, fun cc nn => ⟨fun h => ?_, fun h => ?_⟩, fun p => ?_⟩
  · exact completes_call (exec_of_condTrue (exec_callCcNn cc nn s) h)
  · obtain ⟨hpc, hi, hf⟩ := targetOperand_spec s nn
    exact ⟨_, exec_of_not_condTrue (exec_callCcNn cc nn s) h, hi, hf, hpc, rfl⟩
  · obtain ⟨hi, hf, hp⟩ := idle_push16_spec s s.irAddr 1 s.pc
    obtain ⟨hpc, hm, ki, kf⟩ := goTo_spec ((s.idle s.irAddr 1).push16 s.pc) (BitVec.ofNat 16 (8 * p.val))
    exact ⟨_, rfl, hi.trans ki, (hf.trans kf).mono (by simp) (by simp), hpc, hm.trans hpc.symm, hp⟩

/-- Settles O49: each pops PC and MEMPTR, RET cc after one idle T-state and only if taken; RETI and RETN then copy
IFF2. -/
theorem returns : Obligations.Returns := by
  unfold Obligations.Returns
  intro s pops returned
  obtain ⟨hpc, hm, hsp, hi, hf⟩ := return_spec s
  obtain ⟨jpc, jm, jsp, hiff, ji, jf⟩ := returnFromInterrupt_spec s
  obtain ⟨ki, kf⟩ := idle_spec s s.irAddr 1
  refine ⟨⟨_, rfl, hi, hf, hpc, hm, hsp⟩, fun cc => ⟨fun h => ?_, fun h => ?_⟩,
    ⟨_, rfl, ji, jf, ⟨jpc, jm, jsp⟩, hiff⟩, fun v => ⟨_, rfl, ji, jf, ⟨jpc, jm, jsp⟩, hiff⟩⟩
  · obtain ⟨lpc, lm, lsp, li, lf⟩ := return_spec (s.idle s.irAddr 1)
    exact ⟨_, exec_of_condTrue (cc := cc) rfl h, ki.trans li, kf.trans lf, lpc, lm, lsp⟩
  · exact ⟨_, exec_of_not_condTrue (cc := cc) rfl h, ki, kf, trivial⟩

end

/-! # What each service writes, and the acknowledges -/

namespace Sys2Proof.Machine
open Sys2Proof

/-! ## The services of NMI and INT (60_exceptions.md R539 to R542) -/

/-- IFF1 and IFF2 as the NMI service leaves them: IFF2 takes IFF1, and IFF1 is cleared. -/
def State.nmiIffs (s : State) : State := { s with iff2 := s.iff1, iff1 := false }

theorem nmiIffs_frame (s : State) : Frame [.iff1, .iff2] [] s s.nmiIffs :=
  ((setIff2_frame s s.iff1).trans (setIff1_frame _ false)).mono (by simp) (by simp)

theorem serviceNmi_eq (s : State) :
    s.serviceNmi = (s.unblocked.enterInterrupt .ackNmi 5).nmiIffs.goTo 0x0066 := rfl

/-- The service of an INT in modes 0 and 1: the acknowledge and the push, then RST 0x38 (R541, R542). -/
theorem serviceInt_rst (s : State) (h : s.im ≠ .im2) :
    s.serviceInt = ({ s with iff1 := false, iff2 := false }.enterInterrupt .ackInt 7).goTo 0x0038 := by
  obtain ⟨-, -, -, -, -, -, -, hf⟩ := enterInterrupt_spec { s with iff1 := false, iff2 := false } .ackInt 7
  have him : ({ s with iff1 := false, iff2 := false }.enterInterrupt .ackInt 7).im = s.im := hf.1 .im (by simp)
  rw [State.serviceInt, State.intVector, him]
  cases hm : s.im with
  | im0 => rfl
  | im1 => rfl
  | im2 => exact absurd hm h

/-! ## Which signal is serviced -/

/-- RESET comes before NMI (R535). -/
theorem takesNmi_of_takesReset {s : State} (h : s.takesReset = true) : s.takesNmi = false := by
  rw [State.takesReset] at h
  simp [State.takesNmi, h]

/-- RESET comes before INT (R535). -/
theorem takesInt_of_takesReset {s : State} (h : s.takesReset = true) : s.takesInt = false := by
  simp [State.takesInt, h]

/-- NMI comes before INT (R535). -/
theorem takesInt_of_takesNmi {s : State} (h : s.takesNmi = true) : s.takesInt = false := by
  simp [State.takesInt, h]

theorem takesReset_of_takesNmi {s : State} (h : s.takesNmi = true) : s.takesReset = false :=
  Bool.eq_false_iff.2 fun k => by simp [takesNmi_of_takesReset k] at h

theorem takesReset_of_takesInt {s : State} (h : s.takesInt = true) : s.takesReset = false :=
  Bool.eq_false_iff.2 fun k => by simp [takesInt_of_takesReset k] at h

theorem takesNmi_of_takesInt {s : State} (h : s.takesInt = true) : s.takesNmi = false :=
  Bool.eq_false_iff.2 fun k => by simp [takesInt_of_takesNmi k] at h

theorem noSignal_iff (s : State) :
    s.noSignal = true ↔ s.takesReset = false ∧ s.takesNmi = false ∧ s.takesInt = false := by
  simp [State.noSignal, and_assoc]

/-! ## The acknowledges of a run -/

/-- The three callbacks by which the core acknowledges a signal (R544). -/
def isAck : BusCall → Bool
  | .ackReset | .ackNmi | .ackInt => true
  | _ => false

/-- A run issues these acknowledges before anything else, and no other. -/
def Acknowledges (acks : List BusCall) (s t : State) : Prop :=
  ∃ calls, t.bus = calls ++ (acks ++ s.bus) ∧ ∀ c ∈ calls, isAck c = false

namespace Acknowledges

variable {acks : List BusCall} {s t u : State}

theorem refl (s : State) : Acknowledges [] s s := ⟨[], rfl, nofun⟩

theorem trans (h : Acknowledges acks s t) (k : Acknowledges [] t u) : Acknowledges acks s u := by
  obtain ⟨cs, hc, hn⟩ := h
  obtain ⟨ds, hd, hm⟩ := k
  exact ⟨ds ++ cs, by rw [hd, hc, List.nil_append, List.append_assoc],
    fun c hc => (List.mem_append.1 hc).elim (hm c) (hn c)⟩

theorem timesIssued (h : Acknowledges acks s t) {c : BusCall} (hc : isAck c = true) :
    t.timesIssued c = s.timesIssued c + acks.count c := by
  obtain ⟨cs, hb, hn⟩ := h
  have h0 : cs.count c = 0 := List.count_eq_zero.2 fun hm => by simp [hn c hm] at hc
  rw [State.timesIssued, hb, List.count_append, List.count_append, h0, Nat.zero_add, Nat.add_comm]
  rfl

theorem suffix (h : Acknowledges acks s t) : acks ++ s.bus <:+ t.bus := by
  obtain ⟨cs, hb, -⟩ := h
  exact ⟨cs, hb.symm⟩

end Acknowledges

/-- A run that issues no acknowledge. -/
theorem Issued.acknowledges {calls : List BusCall} {s t : State} (h : Issued calls s t)
    (hn : ∀ c ∈ calls, isAck c = false) : Acknowledges [] s t :=
  ⟨calls.reverse, h.1, fun c hc => hn c (List.mem_reverse.1 hc)⟩

theorem isAck_of_isDataCall {c : BusCall} (h : isDataCall c = true) : isAck c = false := by
  cases c with
  | ackReset => exact Bool.noConfusion h
  | ackNmi => exact Bool.noConfusion h
  | ackInt => exact Bool.noConfusion h
  | _ => rfl

/-- The acknowledge comes first, and the push behind it acknowledges nothing. -/
theorem enterInterrupt_acknowledges (s : State) (ack : BusCall) (cost : Nat) :
    Acknowledges [ack] s (s.enterInterrupt ack cost) := by
  obtain ⟨hb, -⟩ := enterInterrupt_spec s ack cost
  exact ⟨_, hb, by simp [pushCalls, isAck]⟩

theorem intVector_acknowledges (s : State) : Acknowledges [] s s.intVector.2 := by
  rw [State.intVector]
  cases s.im with
  | im0 => exact .refl s
  | im1 => exact .refl s
  | im2 =>
    obtain ⟨-, hi, -⟩ := memRead16_spec s (join s.i s.dataBus)
    exact hi.acknowledges (by simp [isAck])

theorem serviceNmi_acknowledges (s : State) : Acknowledges [.ackNmi] s s.serviceNmi :=
  enterInterrupt_acknowledges s.unblocked .ackNmi 5

theorem serviceInt_acknowledges (s : State) : Acknowledges [.ackInt] s s.serviceInt :=
  (enterInterrupt_acknowledges { s with iff1 := false, iff2 := false } .ackInt 7).trans (intVector_acknowledges _)

theorem fetchDisplaced_acknowledges (s : State) : Acknowledges [] s s.fetchDisplaced :=
  ⟨[.noRequestMem _, .noRequestMem _, .readMem _, .readMem _], rfl, by simp [isAck]⟩

theorem fetchInstr_acknowledges (s : State) (i : Instr) : Acknowledges [] s (s.fetchInstr i) := by
  rw [fetchInstr_eq (n := m1Count i) (cb := isIdxCb i) rfl]
  obtain ⟨-, hi, -⟩ := fetchM1s_spec (m1Count i - if s.pendingIndex.isSome then 1 else 0) (s.withPending none)
  have h : Acknowledges [] s _ := hi.acknowledges (by simp [isAck])
  cases isIdxCb i with
  | false => exact h
  | true => exact h.trans (fetchDisplaced_acknowledges _)

theorem runsInstr_acknowledges (s : State) : Acknowledges [] s s.runsInstr.2 := by
  have h : Acknowledges [] s (s.unblocked.fetchInstr s.unblocked.nextInstr) := fetchInstr_acknowledges s.unblocked _
  rw [runsInstr_eq]
  dsimp only
  split
  · exact h.trans (fetchInstr_acknowledges _ _)
  · exact h

theorem exec_acknowledges (i : Instr) (s : State) : ∃ t, exec i s = .next t ∧ Acknowledges [] s t := by
  obtain ⟨t, calls, he, hc, hd⟩ := exec_issued i s
  refine ⟨t, he, hc.acknowledges fun c hm => ?_⟩
  obtain hdata | ⟨rfl, -⟩ := hd c hm
  · exact isAck_of_isDataCall hdata
  · rfl

/-- The acknowledge of the signal that a step services. -/
def State.acksDue (s : State) : List BusCall :=
  if s.takesReset then [.ackReset] else if s.takesNmi then [.ackNmi] else if s.takesInt then [.ackInt] else []

theorem acksDue_of_takesReset {s : State} (h : s.takesReset = true) : s.acksDue = [.ackReset] := if_pos h

theorem acksDue_of_takesNmi {s : State} (h : s.takesNmi = true) : s.acksDue = [.ackNmi] := by
  simp [State.acksDue, takesReset_of_takesNmi h, h]

theorem acksDue_of_takesInt {s : State} (h : s.takesInt = true) : s.acksDue = [.ackInt] := by
  simp [State.acksDue, takesReset_of_takesInt h, takesNmi_of_takesInt h, h]

theorem acksDue_of_noSignal {s : State} (h : s.noSignal = true) : s.acksDue = [] := by
  obtain ⟨hr, hn, hi⟩ := (noSignal_iff s).1 h
  simp [State.acksDue, hr, hn, hi]

theorem acksDue_count (s : State) :
    s.acksDue.count .ackReset = s.takesReset.toNat ∧ s.acksDue.count .ackNmi = s.takesNmi.toNat
      ∧ s.acksDue.count .ackInt = s.takesInt.toNat := by
  obtain h | h | h | h := signal_cases s
  · rw [acksDue_of_takesReset h, takesNmi_of_takesReset h, takesInt_of_takesReset h, h]
    exact ⟨rfl, rfl, rfl⟩
  · rw [acksDue_of_takesNmi h, takesReset_of_takesNmi h, takesInt_of_takesNmi h, h]
    exact ⟨rfl, rfl, rfl⟩
  · rw [acksDue_of_takesInt h, takesReset_of_takesInt h, takesNmi_of_takesInt h, h]
    exact ⟨rfl, rfl, rfl⟩
  · obtain ⟨hr, hn, hi⟩ := (noSignal_iff s).1 h
    rw [acksDue_of_noSignal h, hr, hn, hi]
    exact ⟨rfl, rfl, rfl⟩

theorem step_acknowledges (s : State) : ∃ t, step s = .next t ∧ Acknowledges s.acksDue s t := by
  obtain ⟨h, hs⟩ | ⟨h, hs⟩ | ⟨h, hs⟩ | ⟨h, -, hs⟩ | ⟨h, -, hs⟩ := step_cases s
  · exact ⟨_, hs, acksDue_of_takesReset h ▸ ⟨[], rfl, nofun⟩⟩
  · exact ⟨_, hs, acksDue_of_takesNmi h ▸ serviceNmi_acknowledges s⟩
  · exact ⟨_, hs, acksDue_of_takesInt h ▸ serviceInt_acknowledges s⟩
  · exact ⟨_, hs, acksDue_of_noSignal h ▸ ⟨[.readFetch s.pc], rfl, by simp [isAck]⟩⟩
  · obtain ⟨t, he, ht⟩ := exec_acknowledges s.runsInstr.1 s.runsInstr.2
    exact ⟨t, hs.trans he, acksDue_of_noSignal h ▸ (runsInstr_acknowledges s).trans ht⟩

/-! ## IFF1, IFF2, INT_BLOCKED and IM (R552) -/

/-- The part of the state the table of R552 is about. -/
def State.interruptState (s : State) : Bool × Bool × Bool × IntMode := (s.iff1, s.iff2, s.intBlocked, s.im)

theorem interruptStateAfter_congr (i : Instr) {s t : State} (h : t.interruptState = s.interruptState) :
    interruptStateAfter i t = interruptStateAfter i s := by
  simp only [State.interruptState, Prod.mk.injEq] at h
  obtain ⟨h1, h2, -, hm⟩ := h
  simp only [interruptStateAfter, h1, h2, hm]

/-- The Operations that write no part in `State.kept` are in the last row of the table. -/
theorem interruptStateAfter_of_not_writesKept {i : Instr} (h : writesKept i = false)
    (hi : ∀ x op, i = .ignoredIndexPrefix x op → isIndexPrefix op = false) (s : State) :
    interruptStateAfter i s = (s.iff1, s.iff2, false, s.im) := by
  unfold interruptStateAfter
  split
  case h_8 x op => rw [hi x op rfl]
  case h_9 => rfl
  all_goals exact Bool.noConfusion h

/-- The Operations that write a part in `State.kept`, in the order of `writesKept`: RETI and RETN are the last. -/
theorem exec_interruptState_of_writesKept {i : Instr} (h : writesKept i = true) {s : State}
    (hb : s.intBlocked = false) : ∃ t, exec i s = .next t ∧ t.interruptState = interruptStateAfter i s := by
  unfold writesKept at h
  split at h
  case h_11 | h_12 =>
    obtain ⟨-, -, -, h1, -, hf, -⟩ := returnFromInterrupt_spec s
    refine ⟨s.returnFromInterrupt, rfl, ?_⟩
    have h2 : s.returnFromInterrupt.iff2 = s.iff2 := hf .iff2 (by simp)
    have hk : s.returnFromInterrupt.intBlocked = s.intBlocked := hf .intBlocked (by simp)
    have hm : s.returnFromInterrupt.im = s.im := hf .im (by simp)
    rw [State.interruptState, h1, h2, hk, hm, hb]
    rfl
  case h_13 => exact Bool.noConfusion h
  case h_3 => exact ⟨_, rfl, rfl⟩
  all_goals exact ⟨_, rfl, Prod.ext rfl (Prod.ext rfl (Prod.ext hb rfl))⟩

/-- Every Operation, from the state after the fetch, in which INT_BLOCKED is clear. -/
theorem exec_interruptState (i : Instr) {s : State} (hb : s.intBlocked = false) :
    ∃ t, exec i s = .next t ∧ t.interruptState = interruptStateAfter i s := by
  by_cases hi : ∀ x op, i = .ignoredIndexPrefix x op → isIndexPrefix op = false
  · cases hw : writesKept i with
    | false =>
      obtain ⟨f, he, hf⟩ := exec_regular i hi
      have hk := (hf.runs s).kept hw
      simp only [State.kept, Prod.mk.injEq] at hk
      obtain ⟨-, -, -, -, -, -, h1, h2, hm, -, hb', -⟩ := hk
      refine ⟨_, he s, ?_⟩
      rw [interruptStateAfter_of_not_writesKept hw hi, State.interruptState, h1, h2, hm, hb', hb]
    | true => exact exec_interruptState_of_writesKept hw hb
  · push Not at hi
    obtain ⟨x, op, rfl, hop⟩ := hi
    rw [Bool.ne_false_iff] at hop
    refine ⟨s.redundantPrefix op, by rw [exec_ignoredIndexPrefix, hop]; rfl, ?_⟩
    rw [interruptStateAfter, hop]
    rfl

theorem serviceInt_interruptState (s : State) : s.serviceInt.interruptState = (false, false, s.intBlocked, s.im) := by
  have hv := intVector_frame ({ s with iff1 := false, iff2 := false }.enterInterrupt .ackInt 7)
  have h1 : s.serviceInt.iff1 = false := hv.1 .iff1 (by simp)
  have h2 : s.serviceInt.iff2 = false := hv.1 .iff2 (by simp)
  have hb : s.serviceInt.intBlocked = s.intBlocked := hv.1 .intBlocked (by simp)
  have hm : s.serviceInt.im = s.im := hv.1 .im (by simp)
  rw [State.interruptState, h1, h2, hb, hm]

theorem intBlocked_of_takesInt {s : State} (h : s.takesInt = true) : s.intBlocked = false :=
  Bool.eq_false_iff.2 fun k => by simp [takesInt_of_intBlocked k] at h

end Sys2Proof.Machine

section
open Sys2Proof Sys2Proof.Machine

/-- Settles O11: a service acknowledges its signal before it pushes or reads anything, and neither a fetch nor an
Operation acknowledges. -/
theorem acknowledgeOncePerService : Obligations.AcknowledgeOncePerService := by
  unfold Obligations.AcknowledgeOncePerService
  intro s
  obtain ⟨t, hs, ht⟩ := step_acknowledges s
  obtain ⟨hr, hn, hi⟩ := acksDue_count s
  have first {acks : List BusCall} (h : s.acksDue = acks) : acks ++ s.bus <:+ t.bus := h ▸ ht.suffix
  exact ⟨t, hs, hr ▸ ht.timesIssued rfl, hn ▸ ht.timesIssued rfl, hi ▸ ht.timesIssued rfl,
    fun h => first (acksDue_of_takesReset h), fun h => first (acksDue_of_takesNmi h),
    fun h => first (acksDue_of_takesInt h)⟩

/-- Settles O12: by the cases of a step; the fetch before an Operation changes none of the four. -/
theorem interruptStateTable : Obligations.InterruptStateTable := by
  unfold Obligations.InterruptStateTable
  intro s
  obtain ⟨h, hs⟩ | ⟨h, hs⟩ | ⟨h, hs⟩ | ⟨h, hh, hs⟩ | ⟨h, hh, hs⟩ := step_cases s
  · exact ⟨_, hs, (if_pos h).symm⟩
  · refine ⟨_, hs, ?_⟩
    rw [takesReset_of_takesNmi h, h]
    rfl
  · refine ⟨_, hs, (serviceInt_interruptState s).trans ?_⟩
    rw [takesReset_of_takesInt h, takesNmi_of_takesInt h, h, intBlocked_of_takesInt h]
    rfl
  · obtain ⟨hr, hn, hi⟩ := (noSignal_iff s).1 h
    refine ⟨_, hs, ?_⟩
    rw [hr, hn, hi, hh]
    rfl
  · obtain ⟨hr, hn, hi⟩ := (noSignal_iff s).1 h
    obtain ⟨n, k, hf⟩ := runsInstr_fetches s
    have e {α : Type} (p : State → α) := congrArg p hf.rest
    have hb : s.runsInstr.2.intBlocked = false := e State.intBlocked
    have hu : s.runsInstr.2.interruptState = s.unblocked.interruptState := e State.interruptState
    obtain ⟨t, he, ht⟩ := exec_interruptState s.runsInstr.1 hb
    refine ⟨t, hs.trans he, ht.trans ?_⟩
    rw [interruptStateAfter_congr _ hu, hr, hn, hi, hh]
    rfl

/-- Settles O7: behind the acknowledge and the push, IFF1 is kept in IFF2 and PC goes to 0x0066. -/
theorem nmiServiceEffect : Obligations.NmiServiceEffect := by
  unfold Obligations.NmiServiceEffect
  intro s hs
  obtain ⟨hbus, hT, hin, -, hr, hhalt, hpush, hf⟩ := enterInterrupt_spec s.unblocked .ackNmi 5
  have hiff : (s.unblocked.enterInterrupt .ackNmi 5).iff1 = s.iff1 := hf.1 .iff1 (by simp)
  have hfi := nmiIffs_frame (s.unblocked.enterInterrupt .ackNmi 5)
  obtain ⟨hpc, hm, -, hfg⟩ := goTo_spec (s.unblocked.enterInterrupt .ackNmi 5).nmiIffs 0x0066
  exact ⟨_, (step_nmi s hs).trans (congrArg _ (serviceNmi_eq s)), hpc, hm, hiff, rfl, hf.1 .intBlocked (by simp),
    hhalt, hr, hpush, hT, hin, hbus,
    (((unblocked_frame s).trans hf).trans (hfi.trans hfg)).mono (by simp) fun _ => id⟩

/-- Settles O8: behind the acknowledge and the push, PC goes to 0x0038 without a look at DataBus. -/
theorem intServiceModes0And1Effect : Obligations.IntServiceModes0And1Effect := by
  unfold Obligations.IntServiceModes0And1Effect
  intro s hs him
  obtain ⟨hbus, hT, hin, -, hr, hhalt, hpush, hf⟩ :=
    enterInterrupt_spec { s with iff1 := false, iff2 := false } .ackInt 7
  obtain ⟨hpc, hm, -, hfg⟩ :=
    goTo_spec ({ s with iff1 := false, iff2 := false }.enterInterrupt .ackInt 7) 0x0038
  exact ⟨_, (step_int s hs).trans (congrArg _ (serviceInt_rst s him)), hpc, hm, hf.1 .iff1 (by simp),
    hf.1 .iff2 (by simp), hhalt, hr, hpush, hT, hin, hbus,
    (((clearIffs_frame s).trans hf).trans hfg).mono (by simp) (by simp)⟩

/-- Settles O6, field by field of `State.serviceReset`. -/
theorem resetServiceEffect : Obligations.ResetServiceEffect := by
  unfold Obligations.ResetServiceEffect
  intro s hs
  exact ⟨_, step_reset s hs, rfl, rfl, rfl, rfl, rfl, rfl, rfl, rfl, rfl, rfl, rfl, rfl, rfl, rfl, rfl, rfl, rfl, rfl⟩

end

/-! # Input and output -/

namespace Sys2Proof.Machine
open Sys2Proof

/-! ## Single inputs and outputs -/

/-- The port read of `IN r,(C)` and `IN (C)`: F takes the flags of the byte (R501, R502). -/
theorem inC_spec (s : State) :
    s.inC.1 = s.portByte s.bc ∧ s.inC.2.f = readBits (s.portByte s.bc) s.f ∧ s.inC.2.memptr = s.bc + 1
      ∧ s.inC.2.portIn = s.portIn.tail ∧ Issued [.readPort s.bc] s s.inC.2
      ∧ Frame [.f, .memptr, .ports] [] s s.inC.2 := by
  obtain ⟨hv, hq, hi, hf⟩ := portRead_spec s s.bc
  obtain ⟨hfl, ki, kf⟩ := setF_spec (s.portRead s.bc).2 (logicKeepC (s.portByte s.bc) s.f)
  exact ⟨hv, hfl.trans (logicKeepC_eq ..), rfl, hq, hi.trans ki,
    ((hf.trans kf).trans (setMemptr_frame _ (s.bc + 1))).mono (by simp) (by simp)⟩

/-- An instruction that writes a byte to port BC (R504, R505). -/
theorem completes_outC {i : Instr} {s : State} {v : Byte} (he : exec i s = .next (s.outC v)) :
    Completes i s [.memptr] [] [.writePort s.bc v] fun t => t.memptr = s.bc + 1 := by
  obtain ⟨hi, hf⟩ := portWrite_spec s s.bc v
  exact ⟨_, he, hi, hf.trans (setMemptr_frame _ (s.bc + 1)), rfl⟩

/-! ## The end of an iteration of block input or output (R506) -/

/-- F, HL and MEMPTR, which an iteration writes once its byte is moved. -/
def State.endBlockIo (s : State) (f : Byte) (hl memptr : Word) : State :=
  { (s.setF f).setPairSp .hl hl with memptr := memptr }

theorem endBlockIo_spec (s : State) (f : Byte) (hl memptr : Word) :
    (s.endBlockIo f hl memptr).f = f ∧ Issued [] s (s.endBlockIo f hl memptr)
      ∧ Frame [.f, .reg .h, .reg .l, .memptr] [] s (s.endBlockIo f hl memptr) := by
  obtain ⟨hfl, hi, hf⟩ := setF_spec s f
  obtain ⟨-, ki, kf⟩ := setPairSp_spec (s.setF f) .hl hl
  exact ⟨hfl, hi.trans ki, (hf.trans kf).trans (setMemptr_frame _ memptr)⟩

/-! ## One iteration of a block input -/

/-- The parts that an iteration of a block input writes. -/
def inParts : List Part := [.reg .b, .reg .h, .reg .l, .f, .memptr, .ports]

/-- The callbacks of an iteration of a block input: the port carries the old B. -/
def inCalls (s : State) : List BusCall :=
  [.noRequestMem (join s.i s.r), .readPort s.bc, .writeMem s.hl (s.portByte s.bc)]

/-- An iteration of a block input has been made (R507), with the sum k. -/
def ReadIn (s : State) (delta : Word) (k : Nat) (t : State) : Prop :=
  let v := s.portByte s.bc
  let b := s.reg .b - 1
  t.byteAt s.hl = v ∧ t.reg .b = b ∧ t.hl = s.hl + delta ∧ t.memptr = s.bc + delta ∧ t.f = ioBits v b k
    ∧ t.portIn = s.portIn.tail

/-- The byte of a block input is moved and B decremented (R507). -/
def State.inTransfer (s : State) : State :=
  (((s.idle s.irAddr 1).portRead s.bc).2.memWrite s.hl (s.portByte s.bc)).setReg .b (s.reg .b - 1)

theorem inTransfer_spec (s : State) :
    s.inTransfer.byteAt s.hl = s.portByte s.bc ∧ Issued (inCalls s) s s.inTransfer
      ∧ Frame [.ports, .reg .b] [s.hl] s s.inTransfer := by
  obtain ⟨hi, hf⟩ := idle_spec s s.irAddr 1
  obtain ⟨-, -, ki, kf⟩ := portRead_spec (s.idle s.irAddr 1) s.bc
  obtain ⟨li, lf, hv⟩ := memWrite_spec ((s.idle s.irAddr 1).portRead s.bc).2 s.hl (s.portByte s.bc)
  obtain ⟨-, mi, mf⟩ := setReg_spec (State.memWrite _ s.hl (s.portByte s.bc)) .b (s.reg .b - 1)
  exact ⟨hv, ((hi.trans ki).trans li).trans mi, ((hf.trans kf).trans lf).trans mf⟩

/-- The sum k of a block input: the byte plus C moved by the step. -/
def State.inSum (s : State) (delta : Word) : Nat :=
  (s.portByte s.bc).toNat + (s.reg .c + loByte delta).toNat

theorem inSum_down (s : State) : s.inSum (-1) = (s.portByte s.bc).toNat + (s.reg .c - 1).toNat := by
  rw [State.inSum, BitVec.sub_eq_add_neg]
  rfl

theorem inStep_eq (s : State) (delta : Word) :
    s.inStep delta = s.inTransfer.endBlockIo (ioBlockF (s.portByte s.bc) (s.reg .b - 1) (s.inSum delta))
      (s.hl + delta) (s.bc + delta) := rfl

theorem inStep_spec (s : State) (delta : Word) :
    ReadIn s delta (s.inSum delta) (s.inStep delta) ∧ Issued (inCalls s) s (s.inStep delta)
      ∧ Frame inParts [s.hl] s (s.inStep delta) := by
  obtain ⟨hv, hi, hf⟩ := inTransfer_spec s
  obtain ⟨hfl, ki, kf⟩ := endBlockIo_spec s.inTransfer
    (ioBlockF (s.portByte s.bc) (s.reg .b - 1) (s.inSum delta)) (s.hl + delta) (s.bc + delta)
  rw [← inStep_eq] at hfl ki kf
  exact ⟨⟨hv, inStep_reg_b s delta, rfl, rfl, hfl.trans (ioBlockF_eq ..), rfl⟩, hi.trans ki,
    (hf.trans kf).mono (by simp [inParts]) (by simp)⟩

/-! ## One iteration of a block output -/

/-- The parts that an iteration of a block output writes. -/
def outParts : List Part := [.reg .b, .reg .h, .reg .l, .f, .memptr]

/-- BC once B is decremented: the port of a block output. -/
def State.outPort (s : State) : Word := join (s.reg .b - 1) (s.reg .c)

/-- The callbacks of an iteration of a block output. -/
def outCalls (s : State) : List BusCall :=
  [.noRequestMem (join s.i s.r), .readMem s.hl, .writePort s.outPort (s.memAnswer 0 s.hl)]

/-- An iteration of a block output has been made (R511). -/
def WrittenOut (s : State) (delta : Word) (t : State) : Prop :=
  let v := s.memAnswer 0 s.hl
  t.bc = s.outPort ∧ t.hl = s.hl + delta ∧ t.memptr = s.outPort + delta
    ∧ t.f = ioBits v (s.reg .b - 1) (v.toNat + (t.reg .l).toNat)

/-- The byte of a block output is moved, B decremented before it goes to the port (R511). -/
def State.outTransfer (s : State) : State :=
  (((s.idle s.irAddr 1).memRead s.hl).2.setReg .b (s.reg .b - 1)).portWrite s.outPort (s.memAnswer 0 s.hl)

theorem outTransfer_spec (s : State) :
    Issued (outCalls s) s s.outTransfer ∧ Frame [.reg .b] [] s s.outTransfer := by
  obtain ⟨hi, hf⟩ := idle_spec s s.irAddr 1
  obtain ⟨ki, kf⟩ := memRead_spec (s.idle s.irAddr 1) s.hl
  obtain ⟨-, li, lf⟩ := setReg_spec ((s.idle s.irAddr 1).memRead s.hl).2 .b (s.reg .b - 1)
  obtain ⟨mi, mf⟩ := portWrite_spec (State.setReg _ .b (s.reg .b - 1)) s.outPort (s.memAnswer 0 s.hl)
  exact ⟨((hi.trans ki).trans li).trans mi, ((hf.trans kf).trans lf).trans mf⟩

theorem outStep_eq (s : State) (delta : Word) :
    s.outStep delta = s.outTransfer.endBlockIo
      (ioBlockF (s.memAnswer 0 s.hl) (s.reg .b - 1) ((s.memAnswer 0 s.hl).toNat + (loByte (s.hl + delta)).toNat))
      (s.hl + delta) (s.outPort + delta) := rfl

theorem outStep_spec (s : State) (delta : Word) :
    WrittenOut s delta (s.outStep delta) ∧ Issued (outCalls s) s (s.outStep delta)
      ∧ Frame outParts [] s (s.outStep delta) := by
  obtain ⟨hi, hf⟩ := outTransfer_spec s
  obtain ⟨hfl, ki, kf⟩ := endBlockIo_spec s.outTransfer
    (ioBlockF (s.memAnswer 0 s.hl) (s.reg .b - 1) ((s.memAnswer 0 s.hl).toNat + (loByte (s.hl + delta)).toNat))
    (s.hl + delta) (s.outPort + delta)
  rw [← outStep_eq] at hfl ki kf
  exact ⟨⟨rfl, rfl, rfl, hfl.trans (ioBlockF_eq ..)⟩, hi.trans ki,
    (hf.trans kf).mono (by simp [outParts]) (by simp)⟩

/-! ## The repeat (R509, R513) -/

theorem repeatBlock_spec (s : State) (a : Word) :
    (s.repeatBlock a).pc = s.pc - 2 ∧ Issued (List.replicate 5 (.noRequestMem a)) s (s.repeatBlock a)
      ∧ Frame [.pc] [] s (s.repeatBlock a) := by
  obtain ⟨hi, hf⟩ := idle_spec s a 5
  exact ⟨rfl, hi, hf.trans (setPc_frame _ (s.pc - 2))⟩

/-- An iteration that decremented B is repeated unless B was 1. -/
theorem ioRepeat_eq {s t : State} (hb : t.reg .b = s.reg .b - 1) (a : Word) :
    t.ioRepeat a = if s.reg .b = 1 then t else t.repeatBlock a := by
  rw [State.ioRepeat, hb, if_congr (sub_ne_zero (a := s.reg .b)) rfl rfl, ite_not]

/-- An instruction that repeats an iteration, of which `post` says nothing that the repeat changes. -/
theorem completes_ioRepeat {i : Instr} {s t : State} {a : Word} {ps : List Part} {as : List Word}
    {cs : List BusCall} {post : State → Prop} (he : exec i s = .next (t.ioRepeat a))
    (hb : t.reg .b = s.reg .b - 1) (hpc : t.pc = s.pc) (hi : Issued cs s t) (hf : Frame ps as s t) (hp : post t)
    (hr : post (t.repeatBlock a)) :
    if s.reg .b = 1 then Completes i s ps as cs post
    else Completes i s (.pc :: ps) as (cs ++ List.replicate 5 (.noRequestMem a)) fun u =>
      post u ∧ u.pc = s.pc - 2 := by
  rw [ioRepeat_eq hb] at he
  split
  · next h => exact ⟨t, he.trans (congrArg _ (if_pos h)), hi, hf, hp⟩
  · next h =>
    obtain ⟨kpc, ki, kf⟩ := repeatBlock_spec t a
    exact ⟨_, he.trans (congrArg _ (if_neg h)), hi.trans ki, (hf.trans kf).mono (by simp [or_comm]) (by simp), hr,
      hpc ▸ kpc⟩

section
variable {i : Instr} {s : State} {delta : Word} {k : Nat}

theorem completes_inStep (he : exec i s = .next (s.inStep delta)) (hk : s.inSum delta = k) :
    Completes i s inParts [s.hl] (inCalls s) (ReadIn s delta k) := by
  obtain ⟨hm, hi, hf⟩ := inStep_spec s delta
  exact ⟨_, he, hi, hf, hk ▸ hm⟩

theorem completes_inRepeat (he : exec i s = .next ((s.inStep delta).ioRepeat s.hl)) (hk : s.inSum delta = k) :
    if s.reg .b = 1 then Completes i s inParts [s.hl] (inCalls s) (ReadIn s delta k)
    else Completes i s (.pc :: inParts) [s.hl] (inCalls s ++ List.replicate 5 (.noRequestMem s.hl)) fun t =>
      ReadIn s delta k t ∧ t.pc = s.pc - 2 := by
  obtain ⟨hm, hi, hf⟩ := inStep_spec s delta
  rw [hk] at hm
  exact completes_ioRepeat he (inStep_reg_b s delta) rfl hi hf hm hm

theorem completes_outStep (he : exec i s = .next (s.outStep delta)) :
    Completes i s outParts [] (outCalls s) (WrittenOut s delta) := by
  obtain ⟨hm, hi, hf⟩ := outStep_spec s delta
  exact ⟨_, he, hi, hf, hm⟩

theorem completes_outRepeat (he : exec i s = .next ((s.outStep delta).ioRepeat s.outPort)) :
    if s.reg .b = 1 then Completes i s outParts [] (outCalls s) (WrittenOut s delta)
    else Completes i s (.pc :: outParts) [] (outCalls s ++ List.replicate 5 (.noRequestMem s.outPort)) fun t =>
      WrittenOut s delta t ∧ t.pc = s.pc - 2 := by
  obtain ⟨hm, hi, hf⟩ := outStep_spec s delta
  exact completes_ioRepeat he (outStep_reg_b s delta) rfl hi hf hm hm

end

end Sys2Proof.Machine

section
open Sys2Proof Sys2Proof.Machine

/-- Settles O50: the immediate forms read n first; the inputs then read the port and the outputs write it, and last
the register takes the byte. -/
theorem singleInputsAndOutputs : Obligations.SingleInputsAndOutputs := by
  unfold Obligations.SingleInputsAndOutputs
  intro s
  obtain ⟨hpc, hi, hf⟩ := imm8_spec s
  obtain ⟨hv, hfl, hm, hq, ki, kf⟩ := inC_spec s
  refine ⟨fun n => ?_, fun r => ?_, ⟨_, rfl, ki, kf, hfl, hm, hq⟩, fun n => ?_, fun r => completes_outC rfl,
    completes_outC rfl⟩
  · intro port
    obtain ⟨-, jq, ji, jf⟩ := portRead_spec s.imm8 port
    obtain ⟨la, li, lf⟩ := setReg_spec (s.imm8.portRead port).2 .a (s.portByte port)
    exact ⟨_, rfl, (hi.trans ji).trans li,
      (((hf.trans jf).trans lf).trans (setMemptr_frame _ (port + 1))).mono (by simp) (by simp), la, rfl, hpc, jq⟩
  · exact completes_setReg rfl ki kf fun h => ⟨h.trans hv, (setReg_f ..).trans hfl, (setReg_memptr ..).trans hm,
      (setReg_portIn ..).trans hq⟩
  · obtain ⟨ji, jf⟩ := portWrite_spec s.imm8 (join s.a n) s.a
    exact ⟨_, rfl, hi.trans ji,
      ((hf.trans jf).trans (setMemptr_frame _ (join s.a (n + 1)))).mono (by simp) (by simp), rfl, hpc⟩

/-- Settles O51: INI and IND are one iteration, and INIR and INDR repeat it unless B was 1. -/
theorem blockInputs : Obligations.BlockInputs := by
  unfold Obligations.BlockInputs
  exact fun s => ⟨completes_inStep rfl rfl, completes_inStep rfl (inSum_down s), completes_inRepeat rfl rfl,
    completes_inRepeat rfl (inSum_down s)⟩

/-- Settles O52: OUTI and OUTD are one iteration, and OTIR and OTDR repeat it unless B was 1. -/
theorem blockOutputs : Obligations.BlockOutputs := by
  unfold Obligations.BlockOutputs
  exact fun s => ⟨completes_outStep rfl, completes_outStep rfl, completes_outRepeat rfl, completes_outRepeat rfl⟩

end
